-- ==== Sys2Proof/Word.lean ====
section
/-! DEFINITION. The word types of the core (spec 00_scope.md R6, R7; 30_encoding.md R41, R49; 20_memory.md R30).
All quantities are unsigned bit vectors; the four word operations of R8 stand in Machine/Arith.lean. -/

namespace Sys2Proof

/-- A data word of H, M, V, IV and the operand `t`: 32 bits (R6 `W`, R7). -/
abbrev Word := BitVec 32

/-- A command word: 40 bits (R6 `CW`, R41). -/
abbrev CmdWord := BitVec 40

/-- A sequencer word `SQ`: 9 bits (R49). -/
abbrev SeqWord := BitVec 9

/-- A 64-bit host slot holding two consecutive data words (R30). -/
abbrev Slot := BitVec 64

end Sys2Proof
end

