-- ==== Sys2Proof/Machine/Arith.lean ====
section
/-! DEFINITION. The four operations on 32-bit words, the only ones the core uses (00_scope.md R8, 41_quarter_round.md R65).
None of them sets a flag. -/

namespace Sys2Proof.Machine

/-- `add32(a, b) = (a + b) mod 2^32` (R8). -/
def add32 (a b : Word) : Word := a + b

/-- `xor32(a, b)`, bitwise exclusive or (R8). -/
def xor32 (a b : Word) : Word := a ^^^ b

/-- `not32(a) = a xor 0xFFFFFFFF` (R8). -/
def not32 (a : Word) : Word := a ^^^ 0xFFFFFFFF#32

/-- `ror32(a, n) = ((a >> n) | (a << (32 - n))) mod 2^32`, rotation to the right (R8). -/
def ror32 (a : Word) (n : Nat) : Word := (a >>> n) ||| (a <<< (32 - n))

end Sys2Proof.Machine
end

