-- ==== Sys2Proof/Machine/Tables.lean ====
section
/-! DEFINITION. The constant tables of the core (10_state.md R17 to R22): definitions, not state, in one place. Their
numbers are the spec's, which marks those of IV, P0 and SIGMA as from general knowledge (93_implementation_defined.md GK1 to
GK3) and records that they reproduce the known-answer vector; log 9. -/

namespace Sys2Proof.Machine

/-- `IV[0..7]`, the initialization vector (R17). -/
def iv : Vector Word 8 :=
  #v[0x6A09E667#32, 0xBB67AE85#32, 0x3C6EF372#32, 0xA54FF53A#32,
     0x510E527F#32, 0x9B05688C#32, 0x1F83D9AB#32, 0x5BE0CD19#32]

/-- `P0`, the parameter constant (R18). -/
def p0 : Word := 0x01010020#32

/-- `SIGMA[0..9][0..15]`, the round schedule (R19). -/
def sigma : Vector (Vector (Fin 16) 16) 10 :=
  #v[#v[0, 1, 2, 3, 4, 5, 6, 7, 8, 9, 10, 11, 12, 13, 14, 15],
     #v[14, 10, 4, 8, 9, 15, 13, 6, 1, 12, 0, 2, 11, 7, 5, 3],
     #v[11, 8, 12, 0, 5, 2, 15, 13, 10, 14, 3, 6, 7, 1, 9, 4],
     #v[7, 9, 3, 1, 13, 12, 11, 14, 2, 6, 5, 10, 4, 0, 15, 8],
     #v[9, 0, 5, 7, 2, 4, 10, 15, 14, 1, 11, 12, 6, 8, 3, 13],
     #v[2, 12, 6, 10, 0, 11, 8, 3, 4, 13, 7, 5, 15, 14, 1, 9],
     #v[12, 5, 1, 15, 14, 13, 4, 10, 0, 7, 6, 3, 9, 2, 8, 11],
     #v[13, 11, 7, 14, 12, 1, 3, 9, 5, 0, 15, 4, 8, 6, 2, 10],
     #v[6, 15, 14, 9, 11, 3, 0, 8, 12, 2, 13, 7, 1, 4, 10, 5],
     #v[10, 2, 8, 4, 7, 6, 1, 5, 15, 11, 9, 14, 3, 12, 13, 0]]

/-- Four working-vector indices, in the order (a, b, c, d). -/
structure Group where
  a : Fin 16
  b : Fin 16
  c : Fin 16
  d : Fin 16
deriving DecidableEq, Repr

/-- `QR[0..7]`, the index groups: columns 0 to 3, diagonals 4 to 7 (R20). -/
def qr : Vector Group 8 :=
  #v[{ a := 0, b := 4, c := 8, d := 12 }, { a := 1, b := 5, c := 9, d := 13 },
     { a := 2, b := 6, c := 10, d := 14 }, { a := 3, b := 7, c := 11, d := 15 },
     { a := 0, b := 5, c := 10, d := 15 }, { a := 1, b := 6, c := 11, d := 12 },
     { a := 2, b := 7, c := 8, d := 13 }, { a := 3, b := 4, c := 9, d := 14 }]

/-- `ROT`, the four rotation amounts in the order they are used (R21). -/
def rot : Vector Nat 4 := #v[16, 12, 8, 7]

end Sys2Proof.Machine
end

