-- ==== Sys2Proof/Machine/Operands.lean ====
section
/-! DEFINITION. The operands of a quarter-round, which no word carries: they are looked up from the round and the step
(42_round_scheduler.md R67). The operands of the host commands are fields of the command word, taken as they stand
(30_encoding.md R44; Decode.lean). -/

namespace Sys2Proof.Machine

/-- The six indices of a quarter-round: `a, b, c, d` into V, `x, y` into M (R67). -/
structure Sched where
  a : Fin 16
  b : Fin 16
  c : Fin 16
  d : Fin 16
  x : Fin 16
  y : Fin 16
deriving DecidableEq, Repr

/-- `SIGMA[r][2s]` (R67). -/
def selectX (r : Fin 10) (s : Fin 8) : Fin 16 := (sigma[r])[2 * s.val]

/-- `SIGMA[r][2s + 1]` (R67). -/
def selectY (r : Fin 10) (s : Fin 8) : Fin 16 := (sigma[r])[2 * s.val + 1]

/-- `sched(r, s)` (R67). -/
def sched (r : Fin 10) (s : Fin 8) : Sched :=
  { a := qr[s].a, b := qr[s].b, c := qr[s].c, d := qr[s].d, x := selectX r s, y := selectY r s }

end Sys2Proof.Machine
end

