-- ==== Sys2Proof/Config.lean ====
section
/-! DEFINITION. What the spec leaves open. Every constant here is without a body: no proof can see a value of it, so what
is proved holds whatever it is. All other parameters of the core are fixed by 00_scope.md R6 (Machine/Tables.lean). -/

namespace Sys2Proof

/-- The unspecified contents of `H[i]` after the `n`-th reset (10_state.md R26; 93_implementation_defined.md U1).
DESIGN CHOICE: a free value that depends on how many resets there were, since R27 forbids one fixed value per run;
log 1. Unsafe: two runs from the same state get the same words. -/
opaque Config.resetH (n : Nat) (i : Fin 8) : Word

/-- The unspecified contents of `M[j]` after the `n`-th reset (10_state.md R26). DESIGN CHOICE, unsafe, log 1. -/
opaque Config.resetM (n : Nat) (j : Fin 16) : Word

/-- The unspecified contents of `V[k]` after the `n`-th reset (10_state.md R26). DESIGN CHOICE, unsafe, log 1. -/
opaque Config.resetV (n : Nat) (k : Fin 16) : Word

/-- `LAT`, the time between two steps: open, and used by no rule of the spec (00_scope.md R6, 70_reset_and_hazards.md R113).
The model takes no time, so nothing reads it; log 10. Safe. -/
opaque Config.lat : Nat

end Sys2Proof
end

