-- ==== Sys2Proof/Syntax.lean ====
section
/-! DEFINITION. The instructions of the core: the six host commands and the two micro-operations of
spec/opcode_table.json (30_encoding.md R43, R50), the sequencer's values (R49), and the written form of both
(the fields of a command word, R41, and of a sequencer word, R49). Operand types are the exact ranges of R44 and R49,
so that an H-index of 8 to 15 or a round of 10 to 15 is no value at all (R29, R49). -/

namespace Sys2Proof

/-- The instructions, one constructor per row of spec/opcode_table.json. -/
inductive Instr where
  /-- `NOP` (43_state_accumulator.md R77). -/
  | nop
  /-- `INIT` (43_state_accumulator.md R74). -/
  | init
  /-- `LDH i, v`: H-index `i`, word `v` (43_state_accumulator.md R75). -/
  | ldh (i : Fin 8) (v : Word)
  /-- `LDM j, v`: M-index `j`, word `v` (40_compress.md R54). -/
  | ldm (j : Fin 16) (v : Word)
  /-- `COMP t, f`: byte counter `t`, final flag `f` (40_compress.md R55). -/
  | comp (t : Word) (f : Bool)
  /-- `RDH i`: H-index `i` (43_state_accumulator.md R76). -/
  | rdh (i : Fin 8)
  /-- The micro-operation `G` at round `r`, step `s` (30_encoding.md R50, 41_quarter_round.md R63). -/
  | g (r : Fin 10) (s : Fin 8)
  /-- The micro-operation `FEED` (30_encoding.md R50, 43_state_accumulator.md R78). -/
  | feed
deriving DecidableEq, Repr

/-- The mnemonics of the opcode table (R43, R50). -/
inductive Mnemonic where
  | NOP | INIT | LDH | LDM | COMP | RDH | G | FEED
deriving DecidableEq, Repr

/-- Why a command word is illegal (60_exceptions.md R91): a reserved opcode (CAUSE 1) or a must-be-zero field that is
not zero (CAUSE 2). CAUSE 0 is the absence of one; CAUSE 3 never occurs. -/
inductive IllegalCause where
  | reservedOp
  | badField
deriving DecidableEq, Repr

/-- What decoding a command word gives (R45): a command with its operands, or the cause of its illegality. -/
inductive Decoded where
  | command (i : Instr)
  | illegal (c : IllegalCause)
deriving DecidableEq, Repr

/-- The phases of the sequencer (10_state.md R14). -/
inductive Phase where
  | idle | mix | feed
deriving DecidableEq, Repr

/-- The sequencer (PHASE, RND, STEP), as R49 asks: a type with exactly its 82 values. RND and STEP are 0 in `idle`
and `feed` (10_state.md R14). -/
inductive Seq where
  | idle
  | mix (r : Fin 10) (s : Fin 8)
  | feed
deriving DecidableEq, Repr

/-- The five command formats (R42). -/
inductive Format where
  | Z | H | M | C | Q
deriving DecidableEq, Repr

/-- The three fields of a command word (R41). -/
structure CmdFields where
  op : BitVec 4
  idx : BitVec 4
  data : Word
deriving DecidableEq, Repr

/-- The three fields of a sequencer word (R49). -/
structure SeqFields where
  phase : BitVec 2
  rnd : BitVec 4
  step : BitVec 3
deriving DecidableEq, Repr

/-- An instruction as it is written: a host command in the fields of a command word, a micro-operation in those of a
sequencer word. -/
inductive Written where
  | command (f : CmdFields)
  | sequencer (q : SeqFields)
deriving DecidableEq, Repr

/-- The bits an instruction is encoded in: 40 for a host command, 9 for a micro-operation. -/
inductive Encoded where
  | command (w : CmdWord)
  | sequencer (w : SeqWord)
deriving DecidableEq, Repr

/-- A row of the opcode map (R43): a command word `w` is of this row exactly when `w` and `mask` is `pattern`. -/
structure Row where
  mnemonic : Mnemonic
  format : Format
  pattern : CmdWord
  mask : CmdWord
deriving DecidableEq, Repr

end Sys2Proof
end

