-- ==== Sys2Proof/Machine/State.lean ====
section
/-! DEFINITION. The state of one core instance as plain data (10_state.md R10), the host's acts that a step reads
(30_encoding.md R40), the reasons a run can stop, and the state after reset (10_state.md R26). -/

namespace Sys2Proof.Machine

/-- What the host does with the core's inputs in one step (30_encoding.md R40, 70_reset_and_hazards.md R102). -/
inductive HostAct where
  /-- RESET 0; the next command of the stream, if there is one, is on CMD with CMD_VALID 1. -/
  | present
  /-- RESET 0, CMD_VALID 0; the stream waits. -/
  | pause
  /-- RESET 0, CMD_VALID 0; the host takes the next command of the stream away for good. -/
  | withdraw
  /-- RESET 1, whatever is on the command port. -/
  | reset
deriving DecidableEq, Repr

/-- Faults. `step` raises none: the core's one exception, IllegalCommand, has an entry the spec describes (60_exceptions.md
R93), and the model takes it as a next state. -/
inductive Fault where
  /-- Raised by `Safety.checkedStep` alone, at the acceptance of an illegal word: the reading of R93 that the state after
  it is a fault state and never the end of a run. Safe: it stops where the core goes on. -/
  | illegalCommand (c : IllegalCause)
deriving DecidableEq, Repr

/-- Refusals. `step` and `exec` raise none. -/
inductive Refusal where
  /-- An instruction without a meaning yet, raised by such an arm of `exec`; no arm is one. Safe. -/
  | notModelled (mnemonic : String)
  /-- Raised by `Safety.checkedStep` alone, where a step would read a word whose written mark is 0 (10_state.md R27). Safe. -/
  | unwrittenRead
  /-- Raised by the host driver alone: a buffer of the wrong size (44_host_sequences.md R85). Safe. -/
  | bufferSize
  /-- Raised by the host driver alone: 2^32 input bytes or more (44_host_sequences.md R84). Safe. -/
  | counterCeiling
deriving DecidableEq, Repr

/-- The state of the core (10_state.md R10), then the model's own fields: the response port, the host's acts to come,
the number of resets and the mark of a refused run. -/
structure State where
  /-- `H[0..7]`, the hash state (R11). -/
  h : Vector Word 8
  /-- `M[0..15]`, the message block (R12). -/
  m : Vector Word 16
  /-- `V[0..15]`, the working vector (R13). -/
  v : Vector Word 16
  /-- The written marks of H (R25). -/
  hMark : Vector Bool 8
  /-- The written marks of M (R25). -/
  mMark : Vector Bool 16
  /-- The written marks of V (R25). -/
  vMark : Vector Bool 16
  /-- PHASE, RND and STEP (R14). -/
  seq : Seq
  /-- `ERR` (R15). -/
  err : Bool
  /-- `CAUSE` (R15): none is 0. -/
  cause : Option IllegalCause
  /-- The response port in the last step (30_encoding.md R40): a word when RSP_VALID was 1, none when it was 0. Log 3. -/
  rsp : Option Word
  /-- The host's command stream: the words not yet accepted, the next one first (20_memory.md R36). Log 4. -/
  cmds : List CmdWord
  /-- What the host does with the inputs in this and the coming steps; after the last of them it presents. Log 4. -/
  acts : List HostAct
  /-- How many reset steps there were since State.reset. Log 1. -/
  resets : Nat
  /-- The run so far is refused: a step of it read a word nothing had written (10_state.md R27). No step clears it, not even
  a reset step, and no step depends on it. Log 2. -/
  refused : Bool
deriving DecidableEq, Repr

/-- The machine right after reset (10_state.md R26): control state defined, H, M, V unspecified and unwritten. Power-on
is a reset (70_reset_and_hazards.md R102). The contents of H, M and V are the free values of log 1 (DESIGN CHOICE, unsafe);
nothing is presented on the command port (log 4). -/
def State.reset : State :=
  { h := Vector.ofFn (Config.resetH 0)
    m := Vector.ofFn (Config.resetM 0)
    v := Vector.ofFn (Config.resetV 0)
    hMark := Vector.replicate 8 false
    mMark := Vector.replicate 16 false
    vMark := Vector.replicate 16 false
    seq := .idle
    err := false
    cause := none
    rsp := none
    cmds := []
    acts := []
    resets := 0
    refused := false }

end Sys2Proof.Machine
end

