-- ==== Sys2Proof/Machine/Ops.lean ====
section
/-! DEFINITION. The named operations over the state: reading and writing the register arrays with their written marks
(10_state.md R11 to R13, R25), the response port, the host's side of the ports (30_encoding.md R40), taking IllegalCommand
(60_exceptions.md R93) and reset (70_reset_and_hazards.md R102). There is no return from the exception but reset (R96). -/

namespace Sys2Proof.Machine

/-- Read `H[i]`. -/
def State.readH (s : State) (i : Fin 8) : Word := s.h[i]

/-- Write `H[i]` and set its written mark (R25). -/
def State.writeH (s : State) (i : Fin 8) (x : Word) : State :=
  { s with h := s.h.set i x, hMark := s.hMark.set i true }

/-- Write `M[j]` and set its written mark (R25). -/
def State.writeM (s : State) (j : Fin 16) (x : Word) : State :=
  { s with m := s.m.set j x, mMark := s.mMark.set j true }

/-- Write all of H and set all its written marks, as INIT does (R25). -/
def State.loadH (s : State) (ws : Vector Word 8) : State :=
  { s with h := ws, hMark := Vector.replicate 8 true }

/-- Write all of V and set all its written marks, as the acceptance of COMP does (R25). -/
def State.loadV (s : State) (ws : Vector Word 16) : State :=
  { s with v := ws, vMark := Vector.replicate 16 true }

/-- Give H new contents and leave its written marks alone, as FEED does (R25). -/
def State.updateH (s : State) (ws : Vector Word 8) : State := { s with h := ws }

/-- Give V new contents and leave its written marks alone, as G does (R25). -/
def State.updateV (s : State) (ws : Vector Word 16) : State := { s with v := ws }

/-- Set the sequencer (10_state.md R14). -/
def State.setSeq (s : State) (q : Seq) : State := { s with seq := q }

/-- Note whether this step reads a word nothing has written: if it does, the whole run is refused (R27; log 2). -/
def State.noteRead (s : State) (unwritten : Bool) : State := { s with refused := s.refused || unwritten }

/-- Put a word on the response port: RSP_VALID is 1 in this step (30_encoding.md R40). -/
def State.respond (s : State) (x : Word) : State := { s with rsp := some x }

/-- No response: RSP_VALID is 0 in this step (30_encoding.md R40). -/
def State.noResponse (s : State) : State := { s with rsp := none }

/-- Taking IllegalCommand with cause `c` (60_exceptions.md R93): ERR and CAUSE, no response, nothing else. -/
def State.raiseIllegal (s : State) (c : IllegalCause) : State :=
  { s with err := true, cause := some c, rsp := none }

/-- The core's part of a reset step (70_reset_and_hazards.md R102): the state of 10_state.md R26, with contents of H, M and V
that are fresh free values (log 1). The host's stream is the host's and stays. -/
def State.resetStep (s : State) : State :=
  { s with
    h := Vector.ofFn (Config.resetH (s.resets + 1))
    m := Vector.ofFn (Config.resetM (s.resets + 1))
    v := Vector.ofFn (Config.resetV (s.resets + 1))
    hMark := Vector.replicate 8 false
    mMark := Vector.replicate 16 false
    vMark := Vector.replicate 16 false
    seq := .idle
    err := false
    cause := none
    rsp := none
    resets := s.resets + 1 }

/-- What the host does in this step: it presents when nothing else is said. -/
def State.currentAct (s : State) : HostAct :=
  match s.acts with
  | [] => .present
  | a :: _ => a

/-- The command on the port in this step: a word when CMD_VALID is 1 (30_encoding.md R40). -/
def State.presented (s : State) : Option CmdWord :=
  match s.currentAct with
  | .present => s.cmds.head?
  | .pause => none
  | .withdraw => none
  | .reset => none

/-- The host's side of one step: its act is done, and a withdrawn command is gone. A command that is presented and not
accepted stays: the host keeps presenting it (30_encoding.md R40). -/
def State.advanceHost (s : State) : State :=
  { s with
    cmds := if s.currentAct = .withdraw then s.cmds.tail else s.cmds
    acts := s.acts.tail }

/-- The presented command is accepted: the stream goes on to the next one. -/
def State.takeCommand (s : State) : State := { s with cmds := s.cmds.tail }

end Sys2Proof.Machine
end

