-- ==== Sys2Proof/Machine/Marks.lean ====
section
/-! DEFINITION. The written marks read: which instructions read a word nothing has written (10_state.md R25, R27). -/

namespace Sys2Proof.Machine

/-- All eight words of H are written. -/
def allH (s : State) : Bool := (List.finRange 8).all fun i => s.hMark[i]

/-- All sixteen words of M are written. -/
def allM (s : State) : Bool := (List.finRange 16).all fun j => s.mMark[j]

/-- All sixteen words of V are written. -/
def allV (s : State) : Bool := (List.finRange 16).all fun k => s.vMark[k]

/-- The words of V and M that the quarter-round at (r, k) reads are written (41_quarter_round.md R63). -/
def allScheduled (r : Fin 10) (k : Fin 8) (s : State) : Bool :=
  let o := sched r k
  s.vMark[o.a] && s.vMark[o.b] && s.vMark[o.c] && s.vMark[o.d] && s.mMark[o.x] && s.mMark[o.y]

/-- Whether performing the instruction reads a word whose written mark is 0 (R27): for `COMP` all of H and, because the
micro-steps it starts read it, all of M; for `RDH i` the word `H[i]`; for `G` the words of V and M it is scheduled on; for
`FEED` all of H and V. -/
def readsUnwritten (i : Instr) (s : State) : Bool :=
  match i with
  | .nop => false
  | .init => false
  | .ldh _ _ => false
  | .ldm _ _ => false
  | .comp _ _ => !allH s || !allM s
  | .rdh k => !s.hMark[k]
  | .g r k => !allScheduled r k s
  | .feed => !allH s || !allV s

end Sys2Proof.Machine
end

