-- ==== Sys2Proof/Machine/Accumulator.lean ====
section
/-! DEFINITION. The state accumulator: `INIT`, `LDH`, `RDH`, `NOP` and the micro-operation `FEED`
(43_state_accumulator.md R74 to R79). -/

namespace Sys2Proof.Machine

/-- The initial hash state: IV with word 0 XOR P0 (R74). -/
def initialH : Vector Word 8 := iv.set 0 (xor32 iv[0] p0)

/-- `feed(H, V)`: `H'[i] = xor32(H[i], xor32(V[i], V[i+8]))` (R79). -/
def feed (h : Vector Word 8) (v : Vector Word 16) : Vector Word 8 :=
  Vector.ofFn fun i : Fin 8 => xor32 h[i] (xor32 v[i.val] v[i.val + 8])

/-- `NOP`: do nothing (R77). -/
def execNop (s : State) : Host.Outcome State Fault Refusal := .next s.noResponse

/-- `INIT`: load the initial hash state (R74). -/
def execInit (s : State) : Host.Outcome State Fault Refusal := .next (s.loadH initialH).noResponse

/-- `LDH i, v`: load one word of the hash state (R75). -/
def execLdh (i : Fin 8) (v : Word) (s : State) : Host.Outcome State Fault Refusal :=
  .next (s.writeH i v).noResponse

/-- `RDH i`: read one word of the hash state (R76). An unwritten word refuses the run (10_state.md R27), and the
response is the free value it holds (log 2). -/
def execRdh (i : Fin 8) (s : State) : Host.Outcome State Fault Refusal :=
  .next ((s.noteRead (readsUnwritten (.rdh i) s)).respond (s.readH i))

/-- The micro-operation `FEED`: fold the working vector into the hash state, sequencer to IDLE (R78). A read of an
unwritten word refuses the run (10_state.md R27). -/
def execFeed (s : State) : Host.Outcome State Fault Refusal :=
  .next ((((s.noteRead (readsUnwritten .feed s)).updateH (feed s.h s.v)).setSeq .idle).noResponse)

end Sys2Proof.Machine
end

