-- ==== Sys2Proof/Machine/Scheduler.lean ====
section
/-! DEFINITION. The round scheduler's successor function (42_round_scheduler.md R70). The schedule itself is in
Machine/Operands.lean. -/

namespace Sys2Proof.Machine

/-- `next(r, s)`: the sequencer after the `G` micro-step at (r, s) (R70). -/
def nextSeq (r : Fin 10) (s : Fin 8) : Seq :=
  if hs : s.val < 7 then .mix r ⟨s.val + 1, by omega⟩
  else if hr : r.val < 9 then .mix ⟨r.val + 1, by omega⟩ 0
  else .feed

end Sys2Proof.Machine
end

