-- ==== Sys2Proof/Machine/QuarterRound.lean ====
section
/-! DEFINITION. The mixing quarter-round: the function on six words (41_quarter_round.md R61), the scheduled step on V
(42_round_scheduler.md R68) and the micro-operation `G` (41_quarter_round.md R63). -/

namespace Sys2Proof.Machine

/-- The four words a quarter-round returns, in the order (a2, b2, c2, d2). -/
structure Quad where
  a : Word
  b : Word
  c : Word
  d : Word
deriving DecidableEq, Repr

/-- `G(a, b, c, d, mx, my)`, its eight lines in order (R61), the rotation amounts from ROT (10_state.md R21). -/
def quarter (a b c d mx my : Word) : Quad :=
  let a1 := add32 (add32 a b) mx
  let d1 := ror32 (xor32 d a1) rot[0]
  let c1 := add32 c d1
  let b1 := ror32 (xor32 b c1) rot[1]
  let a2 := add32 (add32 a1 b1) my
  let d2 := ror32 (xor32 d1 a2) rot[2]
  let c2 := add32 c1 d2
  let b2 := ror32 (xor32 b1 c2) rot[3]
  { a := a2, b := b2, c := c2, d := d2 }

/-- The quarter-round at `sched(r, s)`, on the words of V and M: all six reads first (R63). -/
def quarterAt (v m : Vector Word 16) (r : Fin 10) (s : Fin 8) : Quad :=
  let o := sched r s
  quarter v[o.a] v[o.b] v[o.c] v[o.d] m[o.x] m[o.y]

/-- `gstep(V, M, r, s)`: V but for the four words of the quarter-round (42_round_scheduler.md R68). -/
def gstep (v m : Vector Word 16) (r : Fin 10) (s : Fin 8) : Vector Word 16 :=
  let o := sched r s
  let q := quarterAt v m r s
  (((v.set o.a q.a).set o.b q.b).set o.c q.c).set o.d q.d

/-- `round(V, M, r)`: the eight steps in the order 0, 1, ..., 7 (42_round_scheduler.md R68). -/
def mixRound (v m : Vector Word 16) (r : Fin 10) : Vector Word 16 :=
  (List.finRange 8).foldl (fun v s => gstep v m r s) v

/-- The ten rounds of a compression in the order 0, 1, ..., 9 (40_compress.md R57). -/
def allRounds (v m : Vector Word 16) : Vector Word 16 :=
  (List.finRange 10).foldl (fun v r => mixRound v m r) v

/-- The micro-operation `G` at (r, s) (41_quarter_round.md R63). A read of an unwritten word refuses the run (10_state.md
R27). -/
def execG (r : Fin 10) (k : Fin 8) (s : State) : Host.Outcome State Fault Refusal :=
  .next ((((s.noteRead (readsUnwritten (.g r k) s)).updateV (gstep s.v s.m r k)).setSeq (nextSeq r k)).noResponse)

end Sys2Proof.Machine
end

