-- ==== Sys2Proof/Machine/Compress.lean ====
section
/-! DEFINITION. The compression operation: `LDM`, `COMP` and the pure function a compression computes
(40_compress.md R54, R55, R57). -/

namespace Sys2Proof.Machine

/-- Sixteen words of which the first eight and the last eight are given: `V[0..7] = lo`, `V[8..15] = hi` (R55, R57). -/
def joinHalves (lo hi : Vector Word 8) : Vector Word 16 :=
  Vector.ofFn fun k : Fin 16 => if h : k.val < 8 then lo[k.val] else hi[k.val - 8]

/-- `setup(H, t, f)`: H, then IV with the counter XORed into word 12 and word 14 inverted for a final block (R55, R57). -/
def setup (h : Vector Word 8) (t : Word) (f : Bool) : Vector Word 16 :=
  let v := joinHalves h iv
  let v := v.set 12 (xor32 v[12] t)
  if f then v.set 14 (not32 v[14]) else v

/-- `compress(H, M, t, f)` (R57). -/
def compress (h : Vector Word 8) (m : Vector Word 16) (t : Word) (f : Bool) : Vector Word 8 :=
  feed h (allRounds (setup h t f) m)

/-- `LDM j, v`: load one word of the message block (R54). -/
def execLdm (j : Fin 16) (v : Word) (s : State) : Host.Outcome State Fault Refusal :=
  .next (s.writeM j v).noResponse

/-- `COMP t, f`: start one compression of the block in M into H (R55). An unwritten word of H or M refuses the run
(10_state.md R27), and gives the free value it holds (log 2). -/
def execComp (t : Word) (f : Bool) (s : State) : Host.Outcome State Fault Refusal :=
  .next ((((s.noteRead (readsUnwritten (.comp t f) s)).loadV (setup s.h t f)).setSeq (.mix 0 0)).noResponse)

end Sys2Proof.Machine
end

