-- ==== Sys2Proof/Machine/Dispatch.lean ====
section
/-! DEFINITION. One arm per instruction. Whether a command is accepted at all is the fetch's (Machine/Fetch.lean). -/

namespace Sys2Proof.Machine

def exec (i : Instr) (s : State) : Host.Outcome State Fault Refusal :=
  match i with
  | .nop => Sys2Proof.Machine.execNop s
  | .init => Sys2Proof.Machine.execInit s
  | .ldh k v => Sys2Proof.Machine.execLdh k v s
  | .ldm j v => Sys2Proof.Machine.execLdm j v s
  | .comp t f => Sys2Proof.Machine.execComp t f s
  | .rdh k => Sys2Proof.Machine.execRdh k s
  | .g r k => Sys2Proof.Machine.execG r k s
  | .feed => Sys2Proof.Machine.execFeed s

end Sys2Proof.Machine
end

