-- ==== Sys2Proof/WellFormed.lean ====
section
/-! DEFINITION. Well-formedness of the written form: the must-be-zero tests of the five command formats and the reserved
opcodes (30_encoding.md R42, R46, R47), and the sequencer values that occur (R49). The operands of `Instr` are exact
ranges already, so what a check can refuse is a written form, not a term of `Instr`; `Instr.wellFormed` (Decode.lean)
is this check on the form an instruction is written in. -/

namespace Sys2Proof

/-- The format of an opcode (R43); opcodes 6 to 15 are reserved and have none (R46). -/
def Format.ofOp (op : BitVec 4) : Option Format :=
  match op.toNat with
  | 0 => some .Z
  | 1 => some .Z
  | 2 => some .H
  | 3 => some .M
  | 4 => some .C
  | 5 => some .Q
  | _ => none

/-- The must-be-zero test of a format (R42). -/
def Format.mbzHolds : Format → CmdFields → Bool
  | .Z, f => f.idx == 0#4 && f.data == 0#32
  | .H, f => !f.idx.getLsbD 3
  | .M, _ => true
  | .C, f => !f.idx.getLsbD 3 && !f.idx.getLsbD 2 && !f.idx.getLsbD 1
  | .Q, f => !f.idx.getLsbD 3 && f.data == 0#32

/-- A command word's fields are well formed when the opcode is defined and its format's must-be-zero bits are zero
(R46, R47). -/
def CmdFields.wellFormed (f : CmdFields) : Bool :=
  match Format.ofOp f.op with
  | some k => k.mbzHolds f
  | none => false

/-- A sequencer word's fields are well formed when they are one of the 82 values of R49. -/
def SeqFields.wellFormed (q : SeqFields) : Bool :=
  match q.phase.toNat with
  | 0 => q.rnd == 0#4 && q.step == 0#3
  | 1 => decide (q.rnd.toNat < 10)
  | 2 => q.rnd == 0#4 && q.step == 0#3
  | _ => false

/-- Well-formedness of a written instruction. -/
def Written.wellFormed : Written → Bool
  | .command f => f.wellFormed
  | .sequencer q => q.wellFormed

end Sys2Proof
end

