-- ==== Sys2Proof/Decode.lean ====
section
/-! DEFINITION. The decoder of command words and of sequencer words, total, and the encoder (30_encoding.md R41 to R50). -/

namespace Sys2Proof

/-- The fields of a command word: `op = w[39:36]`, `idx = w[35:32]`, `data = w[31:0]` (R41). -/
def CmdFields.ofWord (w : CmdWord) : CmdFields :=
  { op := w.extractLsb' 36 4, idx := w.extractLsb' 32 4, data := w.extractLsb' 0 32 }

/-- `CMD = { op, idx, data }` (R41). -/
def CmdFields.toWord (f : CmdFields) : CmdWord := f.op ++ f.idx ++ f.data

/-- The H-index of formats H and Q: `i = CMD[34:32]` (R44). -/
def CmdFields.hIndex (f : CmdFields) : Fin 8 := (f.idx.extractLsb' 0 3).toFin

/-- The M-index of format M: `j = CMD[35:32]` (R44). -/
def CmdFields.mIndex (f : CmdFields) : Fin 16 := f.idx.toFin

/-- The final flag of format C: `f = CMD[32]` (R44). -/
def CmdFields.finalFlag (f : CmdFields) : Bool := f.idx.getLsbD 0

/-- Decoding the fields of a command word, in the order of tests of R45: the reserved opcode first, then the
must-be-zero fields of the opcode. -/
def decodeFields (f : CmdFields) : Decoded :=
  match f.op.toNat with
  | 0 => if f.idx = 0#4 ∧ f.data = 0#32 then .command .nop else .illegal .badField
  | 1 => if f.idx = 0#4 ∧ f.data = 0#32 then .command .init else .illegal .badField
  | 2 => if f.idx.getLsbD 3 = false then .command (.ldh f.hIndex f.data) else .illegal .badField
  | 3 => .command (.ldm f.mIndex f.data)
  | 4 => if f.idx.extractLsb' 1 3 = 0#3 then .command (.comp f.data f.finalFlag) else .illegal .badField
  | 5 => if f.idx.getLsbD 3 = false ∧ f.data = 0#32 then .command (.rdh f.hIndex) else .illegal .badField
  | _ => .illegal .reservedOp

/-- Decoding a command word is total (R45). -/
def decodeCommand (w : CmdWord) : Decoded := decodeFields (CmdFields.ofWord w)

/-- The fields of a sequencer word `SQ = { PHASE[1:0], RND[3:0], STEP[2:0] }` (R49). -/
def SeqFields.ofWord (w : SeqWord) : SeqFields :=
  { phase := w.extractLsb' 7 2, rnd := w.extractLsb' 3 4, step := w.extractLsb' 0 3 }

/-- `SQ = { PHASE[1:0], RND[3:0], STEP[2:0] }` (R49). -/
def SeqFields.toWord (q : SeqFields) : SeqWord := q.phase ++ q.rnd ++ q.step

/-- The sequencer's value from its fields; the values that never occur are none (R49). -/
def Seq.ofFields (q : SeqFields) : Option Seq :=
  match q.phase.toNat with
  | 0 => if q.rnd = 0#4 ∧ q.step = 0#3 then some .idle else none
  | 1 => if h : q.rnd.toNat < 10 then some (.mix ⟨q.rnd.toNat, h⟩ q.step.toFin) else none
  | 2 => if q.rnd = 0#4 ∧ q.step = 0#3 then some .feed else none
  | _ => none

/-- The sequencer's value from its word (R49). -/
def Seq.ofWord (w : SeqWord) : Option Seq := Seq.ofFields (SeqFields.ofWord w)

/-- The fields of a sequencer's value: PHASE codes 00 IDLE, 01 MIX, 10 FEED (R49). -/
def Seq.fields : Seq → SeqFields
  | .idle => { phase := 0#2, rnd := 0#4, step := 0#3 }
  | .mix r s => { phase := 1#2, rnd := BitVec.ofNat 4 r.val, step := BitVec.ofNat 3 s.val }
  | .feed => { phase := 2#2, rnd := 0#4, step := 0#3 }

/-- The sequencer word of a sequencer's value (R49). -/
def Seq.word (q : Seq) : SeqWord := q.fields.toWord

/-- Which micro-operation the sequencer selects, by its value alone (R50): none while it is IDLE. -/
def Seq.micro : Seq → Option Instr
  | .idle => none
  | .mix r s => some (.g r s)
  | .feed => some .feed

/-- Decoding a sequencer word: the micro-operation it selects (R50). -/
def decodeSequencer (w : SeqWord) : Option Instr := (Seq.ofWord w).bind Seq.micro

/-- The opcode map of the host commands (R43). -/
def opcodeMap : List Row :=
  [ { mnemonic := .NOP, format := .Z, pattern := 0x0000000000#40, mask := 0xFFFFFFFFFF#40 },
    { mnemonic := .INIT, format := .Z, pattern := 0x1000000000#40, mask := 0xFFFFFFFFFF#40 },
    { mnemonic := .LDH, format := .H, pattern := 0x2000000000#40, mask := 0xF800000000#40 },
    { mnemonic := .LDM, format := .M, pattern := 0x3000000000#40, mask := 0xF000000000#40 },
    { mnemonic := .COMP, format := .C, pattern := 0x4000000000#40, mask := 0xFE00000000#40 },
    { mnemonic := .RDH, format := .Q, pattern := 0x5000000000#40, mask := 0xF8FFFFFFFF#40 } ]

/-- A word is the command of a row exactly when the word and the mask is the pattern (R43). -/
def Row.admits (r : Row) (w : CmdWord) : Bool := (w &&& r.mask) == r.pattern

/-- The mnemonic of an instruction. -/
def Instr.mnemonic : Instr → Mnemonic
  | .nop => .NOP
  | .init => .INIT
  | .ldh _ _ => .LDH
  | .ldm _ _ => .LDM
  | .comp _ _ => .COMP
  | .rdh _ => .RDH
  | .g _ _ => .G
  | .feed => .FEED

/-- The written form of an instruction: the fields its format carries the operands in, the must-be-zero bits zero
(R42 for the host commands, R50 for the micro-operations). -/
def Instr.written : Instr → Written
  | .nop => .command { op := 0#4, idx := 0#4, data := 0#32 }
  | .init => .command { op := 1#4, idx := 0#4, data := 0#32 }
  | .ldh i v => .command { op := 2#4, idx := BitVec.ofNat 4 i.val, data := v }
  | .ldm j v => .command { op := 3#4, idx := BitVec.ofNat 4 j.val, data := v }
  | .comp t f => .command { op := 4#4, idx := (BitVec.ofBool f).zeroExtend 4, data := t }
  | .rdh i => .command { op := 5#4, idx := BitVec.ofNat 4 i.val, data := 0#32 }
  | .g r s => .sequencer { phase := 1#2, rnd := BitVec.ofNat 4 r.val, step := BitVec.ofNat 3 s.val }
  | .feed => .sequencer { phase := 2#2, rnd := 0#4, step := 0#3 }

/-- An instruction is well formed when its written form is (WellFormed.lean). -/
def Instr.wellFormed (i : Instr) : Bool := i.written.wellFormed

/-- The bits of a written instruction. -/
def Written.encode : Written → Encoded
  | .command f => .command f.toWord
  | .sequencer q => .sequencer q.toWord

/-- The encoder, the inverse of decoding on legal commands (R45) and on the micro-operations' sequencer words (R50). -/
def encode (i : Instr) : Encoded := i.written.encode

/-- Decoding the bits of an instruction of either kind. -/
def decodeEncoded : Encoded → Option Instr
  | .command w => match decodeCommand w with
    | .command i => some i
    | .illegal _ => none
  | .sequencer w => decodeSequencer w

/-- The command word of a host command; the micro-operations have none (41_quarter_round.md R63,
43_state_accumulator.md R78). -/
def Instr.commandWord (i : Instr) : Option CmdWord :=
  match encode i with
  | .command w => some w
  | .sequencer _ => none

/-- The instruction the decoder reads from a word of spec/opcode_table.json, whose rows are of two kinds: 9-bit
sequencer words, which in whole bytes are 16 bits, and 40-bit command words. Bits beyond the word's width must be zero. -/
def decodeTableWord (nbits w : Nat) : Option Instr :=
  if nbits ≤ 16 then
    if w < 2 ^ 9 then decodeEncoded (.sequencer (BitVec.ofNat 9 w)) else none
  else if nbits ≤ 40 then
    if w < 2 ^ 40 then decodeEncoded (.command (BitVec.ofNat 40 w)) else none
  else none

end Sys2Proof
end

