-- ==== Sys2Proof/Machine/Flags.lean ====
section
/-! DEFINITION. The status flags (10_state.md R15) and the output ports (30_encoding.md R40). READY is computed, ERR and
CAUSE are stored, and no arithmetic sets a flag. -/

namespace Sys2Proof.Machine

/-- PHASE of the sequencer (10_state.md R14). -/
def phaseOf : Seq → Phase
  | .idle => .idle
  | .mix _ _ => .mix
  | .feed => .feed

/-- RND: 0 while PHASE is IDLE or FEED (10_state.md R14). -/
def rndOf : Seq → Nat
  | .mix r _ => r.val
  | .idle => 0
  | .feed => 0

/-- STEP: 0 while PHASE is IDLE or FEED (10_state.md R14). -/
def stepOf : Seq → Nat
  | .mix _ s => s.val
  | .idle => 0
  | .feed => 0

/-- `READY = (PHASE == IDLE) and (ERR == 0)` (R15). -/
def ready (s : State) : Bool := phaseOf s.seq == .idle && !s.err

/-- The 2-bit code of CAUSE: 0 none, 1 RESERVED_OP, 2 BAD_FIELD (R15, 60_exceptions.md R91). -/
def causeCode : Option IllegalCause → BitVec 2
  | none => 0#2
  | some .reservedOp => 1#2
  | some .badField => 2#2

/-- `STATUS`: CAUSE in bits 3:2, ERR in bit 1, READY in bit 0 (R15). -/
def statusWord (s : State) : BitVec 4 :=
  causeCode s.cause ++ BitVec.ofBool s.err ++ BitVec.ofBool (ready s)

/-- The output ports, which are all the host can observe (30_encoding.md R40, 10_state.md R24). -/
structure Outputs where
  ready : Bool
  rspValid : Bool
  rsp : Option Word
  err : Bool
  cause : BitVec 2
deriving DecidableEq, Repr

/-- The output ports after a step; RSP has no word while RSP_VALID is 0 (R40). -/
def outputs (s : State) : Outputs :=
  { ready := ready s, rspValid := s.rsp.isSome, rsp := s.rsp, err := s.err, cause := causeCode s.cause }

end Sys2Proof.Machine
end

