-- ==== Sys2Proof/Machine/Fetch.lean ====
section
/-! DEFINITION. What a step performs: reset, a micro-operation of the sequencer, an accepted command, an illegal word, or
nothing (30_encoding.md R40, R50; 60_exceptions.md R95). The core fetches nothing from memory (20_memory.md R39). -/

namespace Sys2Proof.Machine

/-- What one step performs. -/
inductive Selected where
  /-- A reset step. -/
  | reset
  /-- The micro-operation the sequencer selects. -/
  | micro (i : Instr)
  /-- A legal command, accepted. -/
  | accept (i : Instr)
  /-- An illegal word, accepted. -/
  | illegal (c : IllegalCause)
  /-- Nothing: no command is presented, or one is held while ERR is 1. -/
  | nothing
deriving DecidableEq, Repr

/-- What an accepted word selects (R45). -/
def selectWord (w : CmdWord) : Selected :=
  match decodeCommand w with
  | .command i => .accept i
  | .illegal c => .illegal c

/-- What the host enables: acceptance needs READY (R40). -/
def selectHost (s : State) : Selected :=
  if ready s = true then
    match s.presented with
    | some w => selectWord w
    | none => .nothing
  else .nothing

/-- What a step performs: reset wins over everything (60_exceptions.md R95), then the sequencer while it is not IDLE
(R50), then the host. -/
def select (s : State) : Selected :=
  if s.currentAct = .reset then .reset
  else match s.seq.micro with
    | some i => .micro i
    | none => selectHost s

/-- The state with the sequencer at the value of a sequencer word, so that the next step performs what it selects; a word
that no sequencer value has leaves the state as it is. -/
def State.withSequencer (s : State) (w : SeqWord) : State :=
  match Seq.ofWord w with
  | some q => { s with seq := q, acts := .present :: s.acts }
  | none => s

/-- The state with a command word next on the command port and READY at 1, so that the next step accepts it. -/
def State.withCommand (s : State) (w : CmdWord) : State :=
  { s with seq := .idle, err := false, cause := none, cmds := w :: s.cmds, acts := .present :: s.acts }

end Sys2Proof.Machine
end

