-- ==== Sys2Proof/Machine/Step.lean ====
section
/-! DEFINITION. One step of the machine: a reset step, an accepted command, a micro-operation, or nothing. -/

namespace Sys2Proof.Machine

/-- One step. The host's side of the step is done first (`advanceHost`), then what is selected. -/
def step (s : State) : Host.Outcome State Fault Refusal :=
  match select s with
  | .reset => .next s.advanceHost.resetStep
  | .micro i => exec i s.advanceHost
  | .accept i => exec i s.advanceHost.takeCommand
  | .illegal c => .next (s.advanceHost.takeCommand.raiseIllegal c)
  | .nothing => .next s.advanceHost.noResponse

/-- The state whose next step runs the instruction of an opcode-table word: a 9-bit sequencer word (16 bits in whole bytes)
is put in the sequencer, a 40-bit command word on the command port. -/
def State.withFetchWord (s : State) (nbits w : Nat) : State :=
  if nbits ≤ 16 then s.withSequencer (BitVec.ofNat 9 w) else s.withCommand (BitVec.ofNat 40 w)

end Sys2Proof.Machine
end

