-- ==== Sys2Proof/Machine/Driver.lean ====
section
/-! DEFINITION. The host's software around the core: the packing of slots (20_memory.md R30, R31) and the two hashers as
command sequences and as pure functions (44_host_sequences.md R81 to R87). These are rules about the host, not about the core. -/

namespace Sys2Proof.Machine

/-- Word `2k` of a slot: its low half (20_memory.md R30). -/
def slotLow (q : Slot) : Word := q.extractLsb' 0 32

/-- Word `2k + 1` of a slot: its high half (20_memory.md R30). -/
def slotHigh (q : Slot) : Word := q.extractLsb' 32 32

/-- `slot[k] = { w[2k+1], w[2k] }` (20_memory.md R30). -/
def packSlot (low high : Word) : Slot := high ++ low

/-- The words of an input of slots, in order (44_host_sequences.md R81). -/
def slotWords (qs : List Slot) : List Word := qs.flatMap fun q => [slotLow q, slotHigh q]

/-- The digest as four slots (43_state_accumulator.md R76, 44_host_sequences.md R87). -/
def digestSlots (h : Vector Word 8) : Vector Slot 4 :=
  Vector.ofFn fun k : Fin 4 => packSlot h[2 * k.val] h[2 * k.val + 1]

/-- The bytes of a word, least significant first; used only to compare with byte strings (20_memory.md R31). -/
def wordBytes (w : Word) : List (BitVec 8) :=
  [w.extractLsb' 0 8, w.extractLsb' 8 8, w.extractLsb' 16 8, w.extractLsb' 24 8]

/-- One compression of a job: the block, the byte counter after it and the final flag. The counter is the host's unsigned
integer (44_host_sequences.md R84). -/
structure Block where
  words : Vector Word 16
  t : Nat
  final : Bool
deriving DecidableEq, Repr

/-- Up to sixteen words as a block, the rest of it zero (44_host_sequences.md R82 step 3). -/
def padBlock (ws : List Word) : Vector Word 16 := Vector.ofFn fun j : Fin 16 => ws.getD j.val 0#32

/-- The blocks of the general hasher from a counter `t` on (44_host_sequences.md R82): full blocks while MORE than sixteen
words remain, then the tail, exactly once. The fuel is never short when it is at least the number of words. -/
def blocksFrom : Nat → Nat → List Word → List Block
  | 0, t, ws => [{ words := padBlock ws, t := t + 4 * ws.length, final := true }]
  | n + 1, t, ws =>
    if 16 < ws.length then
      { words := padBlock (ws.take 16), t := t + 64, final := false } :: blocksFrom n (t + 64) (ws.drop 16)
    else [{ words := padBlock ws, t := t + 4 * ws.length, final := true }]

/-- The blocks of a message (44_host_sequences.md R82). -/
def messageBlocks (ws : List Word) : List Block := blocksFrom ws.length 0 ws

/-- The commands of one block: sixteen `LDM`, then `COMP` (44_host_sequences.md R82). -/
def Block.commands (b : Block) : List Instr :=
  (List.finRange 16).map (fun j => Instr.ldm j b.words[j]) ++ [.comp (BitVec.ofNat 32 b.t) b.final]

/-- `RDDIGEST`: the eight words of H in order (30_encoding.md R52). -/
def readDigest : List Instr := (List.finRange 8).map Instr.rdh

/-- The command sequence of the general hasher on 32-bit words (44_host_sequences.md R82). -/
def hashCommands (ws : List Word) : List Instr :=
  .init :: ((messageBlocks ws).flatMap Block.commands ++ readDigest)

/-- The command sequence of the fixed-block hasher on sixteen words (44_host_sequences.md R83). -/
def hashFixedBlockCommands (b : Vector Word 16) : List Instr :=
  .init :: ((List.finRange 16).map (fun j => Instr.ldm j b[j]) ++ [.comp 64#32 true] ++ readDigest)

/-- `hash(input, output)`: refused, before any command is sent, for an output that is not 4 slots (44_host_sequences.md R85)
or an input of 2^29 slots or more (R84). -/
def hashGeneral (input : List Slot) (outSlots : Nat) : Except Refusal (List Instr) :=
  if outSlots ≠ 4 then .error .bufferSize
  else if 2 ^ 29 ≤ input.length then .error .counterCeiling
  else .ok (hashCommands (slotWords input))

/-- `hashFixedBlock(input, output)`: refused for an input that is not 8 slots or an output that is not 4
(44_host_sequences.md R83, R85). -/
def hashFixedBlock (input : List Slot) (outSlots : Nat) : Except Refusal (List Instr) :=
  if input.length ≠ 8 ∨ outSlots ≠ 4 then .error .bufferSize
  else .ok (hashFixedBlockCommands (padBlock (slotWords input)))

/-- One block's compression of a chaining value. -/
def Block.apply (h : Vector Word 8) (b : Block) : Vector Word 8 :=
  compress h b.words (BitVec.ofNat 32 b.t) b.final

/-- The digest the general hasher's commands leave in H (44_host_sequences.md R82, 40_compress.md R59). -/
def hashValue (ws : List Word) : Vector Word 8 := (messageBlocks ws).foldl Block.apply initialH

/-- The host puts commands at the end of its stream, as their words (30_encoding.md R40); log 4. -/
def State.submit (s : State) (is : List Instr) : State :=
  { s with cmds := s.cmds ++ is.filterMap Instr.commandWord }

end Sys2Proof.Machine
end

