-- ==== Sys2Proof/Machine/Assembler.lean ====
section
/-! DEFINITION. The assembler lines and the pseudo-instructions (30_encoding.md R51, R52), as trees rather than text (log 18).
An operand out of range has no encoding: the line is refused. -/

namespace Sys2Proof.Machine

/-- A line of assembler: the mnemonic and its numbers as the programmer wrote them (R51), or a pseudo-instruction (R52). -/
inductive Line where
  | nop
  | init
  | ldh (i v : Nat)
  | ldm (j v : Nat)
  | comp (t f : Nat)
  | rdh (i : Nat)
  /-- `.word w`: a raw command word. -/
  | word (w : Nat)
  | ldm64 (k q : Nat)
  | rdh64 (k : Nat)
  | ldblk (ws : List Nat)
  | ldblk64 (qs : List Nat)
  | ldstate (hs : List Nat)
  | rddigest
deriving DecidableEq, Repr

/-- A number as a word, if it is one. -/
def asWord (n : Nat) : Option Word := if n < 2 ^ 32 then some (BitVec.ofNat 32 n) else none

/-- `LDH i, v` with `i` in 0..7 and `v` a 32-bit number (R51). -/
def asmLdh (i v : Nat) : Option Instr :=
  if h : i < 8 then (asWord v).map (Instr.ldh ⟨i, h⟩) else none

/-- `LDM j, v` with `j` in 0..15 and `v` a 32-bit number (R51). -/
def asmLdm (j v : Nat) : Option Instr :=
  if h : j < 16 then (asWord v).map (Instr.ldm ⟨j, h⟩) else none

/-- `COMP t, f` with `t` a 32-bit number and `f` 0 or 1 (R51). -/
def asmComp (t f : Nat) : Option Instr :=
  if f < 2 then (asWord t).map fun t => Instr.comp t (f == 1) else none

/-- `RDH i` with `i` in 0..7 (R51). -/
def asmRdh (i : Nat) : Option Instr := if h : i < 8 then some (.rdh ⟨i, h⟩) else none

/-- All of a list of optional things, or none. -/
def allSome {α : Type} : List (Option α) → Option (List α)
  | [] => some []
  | none :: _ => none
  | some a :: l => (allSome l).map (a :: ·)

/-- `LDM64 k, q`: `LDM 2k, q[31:0]`, `LDM 2k+1, q[63:32]`, `k` in 0..7 (R52). -/
def asmLdm64 (k q : Nat) : List (Option Instr) :=
  if k < 8 ∧ q < 2 ^ 64 then [asmLdm (2 * k) (q % 2 ^ 32), asmLdm (2 * k + 1) (q / 2 ^ 32)] else [none]

/-- `RDH64 k`: `RDH 2k`, `RDH 2k+1`, `k` in 0..3 (R52). -/
def asmRdh64 (k : Nat) : List (Option Instr) := [asmRdh (2 * k), asmRdh (2 * k + 1)]

/-- The commands a line expands to, in order (R51, R52); a raw word is none of them. -/
def Line.expand : Line → List (Option Instr)
  | .nop => [some .nop]
  | .init => [some .init]
  | .ldh i v => [asmLdh i v]
  | .ldm j v => [asmLdm j v]
  | .comp t f => [asmComp t f]
  | .rdh i => [asmRdh i]
  | .word _ => [none]
  | .ldm64 k q => asmLdm64 k q
  | .rdh64 k => asmRdh64 k
  | .ldblk ws => if ws.length = 16 then ws.mapIdx asmLdm else [none]
  | .ldblk64 qs => if qs.length = 8 then (qs.mapIdx asmLdm64).flatten else [none]
  | .ldstate hs => if hs.length = 8 then hs.mapIdx asmLdh else [none]
  | .rddigest => asmRdh64 0 ++ asmRdh64 1 ++ asmRdh64 2 ++ asmRdh64 3

/-- The command words of a line, or none where an operand is out of range (R51). -/
def assemble : Line → Option (List CmdWord)
  | .word w => if w < 2 ^ 40 then some [BitVec.ofNat 40 w] else none
  | l => (allSome l.expand).map fun is => is.filterMap Instr.commandWord

end Sys2Proof.Machine
end

