-- ==== Sys2Proof/Safety.lean ====
section
/-! DEFINITION. What counts as a safe run, in the terms claims use: no error (60_exceptions.md R93), no read of a word nothing
has written (10_state.md R27), no reset during a job (70_reset_and_hazards.md R102); and the invariants of the state. -/

namespace Sys2Proof.Safety

open Sys2Proof.Machine

/-- `ERR` is 0, the premise R93 asks of every claim about a run. -/
abbrev NoError (s : State) : Prop := s.err = false

/-- The host does not reset in this step. -/
abbrev NoReset (s : State) : Prop := s.currentAct ≠ .reset

/-- The host resets at no step of the run to come: the premise of a claim about a job (R102). -/
abbrev NoResetAhead (s : State) : Prop := HostAct.reset ∉ s.acts

/-- The step of a run that claims are made about, as the spec asks of a model: an illegal word ends it with a fault (R93),
a read of an unwritten word is refused (R27), and every other step is the machine's. Decoding comes before the
written-mark test (60_exceptions.md R95). The machine's own `step` goes on in both cases: it takes IllegalCommand as R93
describes, and it marks the run refused and reads the word the register holds, a free value (log 2). -/
def checkedStep (s : State) : Host.Outcome State Fault Refusal :=
  match select s with
  | .reset => step s
  | .micro i => if readsUnwritten i s = true then .refused .unwrittenRead else step s
  | .accept i => if readsUnwritten i s = true then .refused .unwrittenRead else step s
  | .illegal c => .fault (.illegalCommand c)
  | .nothing => step s

/-- The machine of the runs that claims are made about: its run ends at the first refused step, so that the whole run is
refused (R27), and at the first illegal word, so that it is a fault (R93). -/
def checkedCore : Host.Core :=
  { State := State, Fault := Fault, Refusal := Refusal, step := checkedStep, reset := State.reset }

/-- A run of `n` checked steps: the state it comes to, or the whole run's refusal or fault. -/
def checkedRun (n : Nat) (s : State) : Host.Outcome State Fault Refusal := checkedCore.run n s

/-- The run so far is not refused: the premise R27 asks of every claim about a run of the machine itself. -/
abbrev NotRefused (s : State) : Prop := s.refused = false

/-- Every word a compression reads at its start is written, so that a `COMP` is not refused (R27). -/
abbrev AllWritten (s : State) : Prop := (∀ i : Fin 8, s.hMark[i] = true) ∧ ∀ j : Fin 16, s.mMark[j] = true

/-- The control state is consistent: ERR is 1 exactly when CAUSE is not 0 (10_state.md R15); while ERR is 1 the sequencer is
idle (60_exceptions.md R97); while a compression runs, all of V is written (10_state.md R25). -/
abbrev ControlInv (s : State) : Prop :=
  (s.err = true ↔ s.cause ≠ none) ∧ (s.err = true → s.seq = .idle) ∧ (s.seq ≠ .idle → allV s = true)

/-- While a compression runs, all of H, M and V is written: what a checked run keeps (10_state.md R25, R27). -/
abbrev WrittenInv (s : State) : Prop :=
  s.seq ≠ .idle → allH s = true ∧ allM s = true ∧ allV s = true

/-- How many micro-steps are done of the 80 of a compression (42_round_scheduler.md R73). -/
def microsDone (r : Fin 10) (s : Fin 8) : Nat := 8 * r.val + s.val

/-- How many steps a compression still takes: the `G` steps left and the `FEED` step (42_round_scheduler.md R73). -/
def stepsLeft : Seq → Nat
  | .idle => 0
  | .mix r s => 81 - microsDone r s
  | .feed => 1

end Sys2Proof.Safety
end

