-- ==== Sys2Proof/Certificates/Slice0/Obligations.lean ====
section
/-! DEFINITION. The statements for the provers. Each docstring names the rule of spec/ it formalises, or the spec's own
derivation it rests on. -/

namespace Sys2Proof.Claims

open Sys2Proof.Machine Sys2Proof.Safety

/-- H and its written marks are unchanged. -/
def SameH (s t : State) : Prop := t.h = s.h ∧ t.hMark = s.hMark

/-- M and its written marks are unchanged. -/
def SameM (s t : State) : Prop := t.m = s.m ∧ t.mMark = s.mMark

/-- V and its written marks are unchanged. -/
def SameV (s t : State) : Prop := t.v = s.v ∧ t.vMark = s.vMark

/-- ERR and CAUSE are unchanged. -/
def SameLatch (s t : State) : Prop := t.err = s.err ∧ t.cause = s.cause

/-- The host's stream and acts and the reset counter are unchanged. -/
def SameStream (s t : State) : Prop := t.cmds = s.cmds ∧ t.acts = s.acts ∧ t.resets = s.resets

/-- The word is the encoding of the command, and where it is on the command port while READY is 1, the step is the
command's meaning, after the host's side of the step. -/
def AcceptedAs (i : Instr) (w : CmdWord) : Prop :=
  encode i = .command w ∧
    ∀ s : State, ready s = true → s.presented = some w → step s = exec i s.advanceHost.takeCommand

/-- The sequencer word selects the micro-operation, no command word does, and in a state whose sequencer has that value
the step, unless it is a reset step, is the micro-operation's meaning. -/
def SelectedAs (i : Instr) (q : Seq) : Prop :=
  q.micro = some i ∧ encode i = .sequencer q.word ∧ i.commandWord = none ∧
    ∀ s : State, s.seq = q → NoReset s → step s = exec i s.advanceHost

/-- The eight assignments of a quarter-round made one after the other in the working vector, each reading what the earlier
ones wrote (41_quarter_round.md R61, the source's sequence). -/
def mixInPlace (v m : Vector Word 16) (o : Sched) : Vector Word 16 :=
  let v := v.set o.a (v[o.a] + v[o.b] + m[o.x])
  let v := v.set o.d (ror32 (v[o.d] ^^^ v[o.a]) 16)
  let v := v.set o.c (v[o.c] + v[o.d])
  let v := v.set o.b (ror32 (v[o.b] ^^^ v[o.c]) 12)
  let v := v.set o.a (v[o.a] + v[o.b] + m[o.y])
  let v := v.set o.d (ror32 (v[o.d] ^^^ v[o.a]) 8)
  let v := v.set o.c (v[o.c] + v[o.d])
  v.set o.b (ror32 (v[o.b] ^^^ v[o.c]) 7)

/-- The sequencer after one micro-operation. -/
def seqAfterMicro : Seq → Seq
  | .idle => .idle
  | .mix r s => nextSeq r s
  | .feed => .idle

/-- The words on the wire of the worked encodings of 30_encoding.md R51, with what they stand for. -/
def workedEncodings : List (CmdWord × Instr) :=
  [(0x0000000000#40, .nop), (0x1000000000#40, .init), (0x206B08E647#40, .ldh 0 0x6B08E647#32),
   (0x275BE0CD19#40, .ldh 7 0x5BE0CD19#32), (0x3003020100#40, .ldm 0 0x03020100#32),
   (0x3F3F3E3D3C#40, .ldm 15 0x3F3E3D3C#32), (0x4100000040#40, .comp 64#32 true),
   (0x4000000040#40, .comp 64#32 false), (0x4100000000#40, .comp 0#32 true), (0x5000000000#40, .rdh 0),
   (0x5700000000#40, .rdh 7)]

end Sys2Proof.Claims

open Sys2Proof Sys2Proof.Machine Sys2Proof.Safety Sys2Proof.Claims

/-! ### The instructions: what each does, and what it leaves -/

/-- R77: `NOP` is the all-zero word, changes no state and gives no response; any other word with opcode 0 is
`IllegalCommand(BAD_FIELD)`; a `NOP` presented while READY is 0 is held. -/
def Obligations.NopDoesNothing : Prop :=
  AcceptedAs .nop 0x0000000000#40 ∧
  (∀ w : CmdWord, w.extractLsb' 36 4 = 0#4 → (w.extractLsb' 32 4 ≠ 0#4 ∨ w.extractLsb' 0 32 ≠ 0#32) →
    decodeCommand w = .illegal .badField) ∧
  (∀ s : State, ∃ t, exec .nop s = .next t ∧ t.rsp = none ∧
    SameH s t ∧ SameM s t ∧ SameV s t ∧ t.seq = s.seq ∧ SameLatch s t ∧ SameStream s t) ∧
  ∀ s : State, ready s = false → s.presented = some 0x0000000000#40 → ∃ t, step s = .next t ∧ t.cmds = s.cmds

/-- R74: `INIT` writes IV into H with word 0 XORed with P0, sets the eight written marks of H, and changes nothing else. -/
def Obligations.InitLoadsTheInitialHashState : Prop :=
  AcceptedAs .init 0x1000000000#40 ∧
  (∀ w : CmdWord, w.extractLsb' 36 4 = 1#4 → (w.extractLsb' 32 4 ≠ 0#4 ∨ w.extractLsb' 0 32 ≠ 0#32) →
    decodeCommand w = .illegal .badField) ∧
  ∀ s : State, ∃ t, exec .init s = .next t ∧
    t.h = #v[0x6A09E667#32 ^^^ 0x01010020#32, 0xBB67AE85#32, 0x3C6EF372#32, 0xA54FF53A#32,
             0x510E527F#32, 0x9B05688C#32, 0x1F83D9AB#32, 0x5BE0CD19#32] ∧
    t.h[0] = 0x6B08E647#32 ∧ (∀ i : Fin 8, t.hMark[i] = true) ∧ t.rsp = none ∧
    SameM s t ∧ SameV s t ∧ t.seq = s.seq ∧ SameLatch s t ∧ SameStream s t

/-- R75: `LDH i, v` writes `v` into `H[i]`, sets its written mark, and changes nothing else; a word with opcode 2 and
`idx[3] = 1` is `IllegalCommand(BAD_FIELD)`. -/
def Obligations.LdhWritesOneHashWord : Prop :=
  (∀ (i : Fin 8) (v : Word), AcceptedAs (.ldh i v) (2#4 ++ 0#1 ++ BitVec.ofNat 3 i.val ++ v)) ∧
  (∀ w : CmdWord, w.extractLsb' 36 4 = 2#4 → w.getLsbD 35 = true → decodeCommand w = .illegal .badField) ∧
  ∀ (i : Fin 8) (v : Word) (s : State), ∃ t, exec (.ldh i v) s = .next t ∧
    (∀ k : Fin 8, t.h[k] = if k = i then v else s.h[k]) ∧
    (∀ k : Fin 8, t.hMark[k] = if k = i then true else s.hMark[k]) ∧ t.rsp = none ∧
    SameM s t ∧ SameV s t ∧ t.seq = s.seq ∧ SameLatch s t ∧ SameStream s t

/-- R54: `LDM j, v` writes `v` into `M[j]`, sets its written mark, and changes nothing else; every word with opcode 3 is a
legal `LDM`. -/
def Obligations.LdmWritesOneMessageWord : Prop :=
  (∀ (j : Fin 16) (v : Word), AcceptedAs (.ldm j v) (3#4 ++ BitVec.ofNat 4 j.val ++ v)) ∧
  (∀ w : CmdWord, w.extractLsb' 36 4 = 3#4 →
    decodeCommand w = .command (.ldm (w.extractLsb' 32 4).toFin (w.extractLsb' 0 32))) ∧
  ∀ (j : Fin 16) (v : Word) (s : State), ∃ t, exec (.ldm j v) s = .next t ∧
    (∀ k : Fin 16, t.m[k] = if k = j then v else s.m[k]) ∧
    (∀ k : Fin 16, t.mMark[k] = if k = j then true else s.mMark[k]) ∧ t.rsp = none ∧
    SameH s t ∧ SameV s t ∧ t.seq = s.seq ∧ SameLatch s t ∧ SameStream s t

/-- The acceptance step of `COMP t, f` (40_compress.md section 3): V is H and IV, word 12 XORed with `t`, word 14 inverted
when `f`; all of V is marked written; the sequencer is at (MIX, 0, 0); nothing else of the core changes. It holds for H and M
unwritten too: the run is then marked refused (RunIsMarkedExactlyByUnwrittenReads), and the model's choice of log 2 is that the
command runs on the free values the registers hold. -/
def Obligations.CompSetsUpTheWorkingVector : Prop :=
  (∀ (c : Word) (f : Bool), AcceptedAs (.comp c f) (4#4 ++ 0#3 ++ BitVec.ofBool f ++ c)) ∧
  (∀ w : CmdWord, w.extractLsb' 36 4 = 4#4 → w.extractLsb' 33 3 ≠ 0#3 → decodeCommand w = .illegal .badField) ∧
  ∀ (c : Word) (f : Bool) (s : State), ∃ t, exec (.comp c f) s = .next t ∧
    (∀ i : Fin 8, t.v[i.val] = s.h[i]) ∧
    t.v[8] = 0x6A09E667#32 ∧ t.v[9] = 0xBB67AE85#32 ∧ t.v[10] = 0x3C6EF372#32 ∧ t.v[11] = 0xA54FF53A#32 ∧
    t.v[12] = 0x510E527F#32 ^^^ c ∧ t.v[13] = 0x9B05688C#32 ∧
    t.v[14] = (if f then 0xE07C2654#32 else 0x1F83D9AB#32) ∧ t.v[15] = 0x5BE0CD19#32 ∧
    (∀ k : Fin 16, t.vMark[k] = true) ∧ t.seq = .mix 0 0 ∧ ready t = false ∧ t.rsp = none ∧
    SameH s t ∧ SameM s t ∧ SameLatch s t ∧ SameStream s t

/-- `RDH i` (43_state_accumulator.md section 3): the response is `H[i]` and no state changes; a word with opcode 5 and
`idx[3] = 1` or data not 0 is `IllegalCommand(BAD_FIELD)`. It holds for `H[i]` unwritten too: the run is then marked
refused (RunIsMarkedExactlyByUnwrittenReads), and the model's choice of log 2 is that the response is the free value the
register holds. -/
def Obligations.RdhReadsOneHashWord : Prop :=
  (∀ i : Fin 8, AcceptedAs (.rdh i) (5#4 ++ 0#1 ++ BitVec.ofNat 3 i.val ++ 0#32)) ∧
  (∀ w : CmdWord, w.extractLsb' 36 4 = 5#4 → (w.getLsbD 35 = true ∨ w.extractLsb' 0 32 ≠ 0#32) →
    decodeCommand w = .illegal .badField) ∧
  ∀ (i : Fin 8) (s : State), ∃ t, exec (.rdh i) s = .next t ∧ t.rsp = some s.h[i] ∧
    SameH s t ∧ SameM s t ∧ SameV s t ∧ t.seq = s.seq ∧ SameLatch s t ∧ SameStream s t

/-- R63: the `G` micro-step replaces the four scheduled words of V by the quarter-round of their old values and two words of
M, moves the sequencer to next(r, s), keeps READY at 0, and changes nothing else. -/
def Obligations.GMixesTheScheduledWords : Prop :=
  (∀ (r : Fin 10) (k : Fin 8), SelectedAs (.g r k) (.mix r k)) ∧
  ∀ (r : Fin 10) (k : Fin 8) (s : State), ∃ t, exec (.g r k) s = .next t ∧
    (let o := sched r k
     let q := quarter s.v[o.a] s.v[o.b] s.v[o.c] s.v[o.d] s.m[o.x] s.m[o.y]
     t.v[o.a] = q.a ∧ t.v[o.b] = q.b ∧ t.v[o.c] = q.c ∧ t.v[o.d] = q.d ∧
       ∀ j : Fin 16, j ≠ o.a → j ≠ o.b → j ≠ o.c → j ≠ o.d → t.v[j] = s.v[j]) ∧
    t.vMark = s.vMark ∧ t.seq = nextSeq r k ∧ ready t = false ∧ t.rsp = none ∧
    SameH s t ∧ SameM s t ∧ SameLatch s t ∧ SameStream s t

/-- R78: the `FEED` micro-step XORs V and the half of V eight positions ahead into H, returns the sequencer to IDLE, and
changes nothing else; READY becomes 1, since ERR is 0. -/
def Obligations.FeedFoldsVIntoH : Prop :=
  SelectedAs .feed .feed ∧
  ∀ s : State, ∃ t, exec .feed s = .next t ∧
    (∀ i : Fin 8, t.h[i] = s.h[i] ^^^ (s.v[i.val] ^^^ s.v[i.val + 8])) ∧ t.hMark = s.hMark ∧
    t.seq = .idle ∧ (s.err = false → ready t = true) ∧ t.rsp = none ∧
    SameM s t ∧ SameV s t ∧ SameLatch s t ∧ SameStream s t

/-! ### The step -/

/-- A step runs the decoded instruction: a presented word that decodes to a command is performed by its meaning when READY
is 1, the sequencer's micro-operation by its meaning when there is no reset; before the meaning the host's side of the
step is done, and an accepted word leaves the stream. With nothing enabled only the host's side is done,
the model's choice of log 5. -/
def Obligations.StepRunsTheDecodedInstruction : Prop :=
  (∀ (s : State) (w : CmdWord) (i : Instr), ready s = true → s.presented = some w → decodeCommand w = .command i →
    step s = exec i s.advanceHost.takeCommand) ∧
  (∀ (s : State) (i : Instr), NoReset s → s.seq.micro = some i → step s = exec i s.advanceHost) ∧
  (∀ s : State, ready s = true → NoReset s → s.presented = none → step s = .next s.advanceHost.noResponse)

/-- Every step answers a next state: nothing faults, nothing is refused and no step hangs (60_exceptions.md section 1,
40_compress.md section 4). That an illegal word is a next state and an unwritten read runs is the model's choice (logs 7, 2). -/
def Obligations.EveryStepAnswersANextState : Prop := ∀ s : State, ∃ t, step s = .next t

/-- While READY is 0 a presented command is held: the stream is as it was, and what is in it makes no difference to the step
(30_encoding.md section 1). -/
def Obligations.HeldCommandIsNotLookedAt : Prop :=
  ∀ (s : State) (cs : List CmdWord), ready s = false → NoReset s → s.currentAct ≠ .withdraw →
    ∃ t, step s = .next t ∧ t.cmds = s.cmds ∧ step { s with cmds := cs } = .next { t with cmds := cs }

/-- R93: accepting an illegal word sets ERR and CAUSE and does nothing else; READY becomes 0; the next step does not clear
ERR but by a reset; the checked run faults. -/
def Obligations.IllegalCommandEntry : Prop :=
  ∀ (s : State) (w : CmdWord) (c : IllegalCause), ready s = true → s.presented = some w →
    decodeCommand w = .illegal c →
    checkedStep s = .fault (.illegalCommand c) ∧
    ∃ t, step s = .next t ∧ t.err = true ∧ t.cause = some c ∧ SameH s t ∧ SameM s t ∧ SameV s t ∧
      t.seq = .idle ∧ t.rsp = none ∧ ready t = false ∧ t.cmds = s.cmds.tail ∧
      ∀ u, NoReset t → step t = .next u → u.err = true

/-- R97: while ERR is 1, READY is 0, the sequencer is idle, every presented command is held and nothing changes, until a
reset. -/
def Obligations.ErrorLatchHoldsUntilReset : Prop :=
  ∀ s : State, ControlInv s → s.err = true → ready s = false ∧ s.seq = .idle ∧
    (NoReset s → ∃ t, step s = .next t ∧ SameH s t ∧ SameM s t ∧ SameV s t ∧ t.seq = s.seq ∧ SameLatch s t ∧
      t.rsp = none ∧ (s.currentAct ≠ .withdraw → t.cmds = s.cmds))

/-- R102: a reset step, whatever the state and the command port: control state as after reset, every word unwritten, no
command accepted, no response. It is the only way out of the fault state. The stream, from which
an accepted word is taken, is the model's way of holding the command port (log 4). -/
def Obligations.ResetStepFromAnyState : Prop :=
  (∀ s : State, s.currentAct = .reset → ∃ t, step s = .next t ∧ t.seq = .idle ∧ t.err = false ∧ t.cause = none ∧
    (∀ i : Fin 8, t.hMark[i] = false) ∧ (∀ j : Fin 16, t.mMark[j] = false) ∧ (∀ k : Fin 16, t.vMark[k] = false) ∧
    t.rsp = none ∧ ready t = true ∧ t.cmds = s.cmds) ∧
  ∀ s t : State, s.err = true → step s = .next t → t.err = false → s.currentAct = .reset

/-- R26: the values the spec gives after reset. The contents of H, M and V are unspecified, and nothing is said of them. -/
def Obligations.ResetStateIsAsSpecified : Prop :=
  phaseOf State.reset.seq = .idle ∧ rndOf State.reset.seq = 0 ∧ stepOf State.reset.seq = 0 ∧
  State.reset.err = false ∧ causeCode State.reset.cause = 0#2 ∧ ready State.reset = true ∧
  (∀ i : Fin 8, State.reset.hMark[i] = false) ∧ (∀ j : Fin 16, State.reset.mMark[j] = false) ∧
  (∀ k : Fin 16, State.reset.vMark[k] = false)

/-- The status register (10_state.md section 4): READY in bit 0, computed from PHASE and ERR; ERR in bit 1; CAUSE in bits
3:2, never 3. -/
def Obligations.StatusWordFields : Prop :=
  ∀ s : State, ((statusWord s).getLsbD 0 = true ↔ phaseOf s.seq = .idle ∧ s.err = false) ∧
    (statusWord s).getLsbD 1 = s.err ∧ (statusWord s).extractLsb' 2 2 = causeCode s.cause ∧
    causeCode s.cause ≠ 3#2 ∧ (causeCode s.cause = 0#2 ↔ s.cause = none)

/-! ### Decoding and encoding -/

/-- R46: a word with opcode 6 to 15 is `IllegalCommand(RESERVED_OP)`: accepted, it sets ERR, CAUSE to 1, changes nothing
else, and the core accepts no further command until a reset. -/
def Obligations.ReservedOpcodesFault : Prop :=
  ∀ w : CmdWord, 6 ≤ (w.extractLsb' 36 4).toNat → decodeCommand w = .illegal .reservedOp ∧
    ∀ s : State, ready s = true → s.presented = some w → ∃ t, step s = .next t ∧ t.err = true ∧
      causeCode t.cause = 1#2 ∧ ready t = false ∧ SameH s t ∧ SameM s t ∧ SameV s t ∧ t.seq = s.seq ∧
      ∀ n : Nat, NoResetAhead t → ∃ u, core.run n t = .next u ∧ ready u = false ∧ u.rsp = none

/-- R47: a word with opcode 0 to 5 that has a must-be-zero bit of its format set is `IllegalCommand(BAD_FIELD)`; an H-index of
8 to 15 is one of these. -/
def Obligations.StrayBitsFault : Prop :=
  (∀ (w : CmdWord) (k : Format), Format.ofOp (w.extractLsb' 36 4) = some k →
    k.mbzHolds (CmdFields.ofWord w) = false → decodeCommand w = .illegal .badField ∧
    ∀ s : State, ready s = true → s.presented = some w → ∃ t, step s = .next t ∧ t.err = true ∧
      causeCode t.cause = 2#2 ∧ ready t = false ∧ SameH s t ∧ SameM s t ∧ SameV s t ∧ t.seq = s.seq) ∧
  (∀ w : CmdWord, w.extractLsb' 36 4 = 2#4 ∨ w.extractLsb' 36 4 = 5#4 → 8 ≤ (w.extractLsb' 32 4).toNat →
    decodeCommand w = .illegal .badField)

/-- R95: a step takes at most one command off the stream; inside one word the reserved-opcode test is first and decoding
comes before the written-mark test, so an illegal word faults and is never refused; and a reset step is a reset step whatever
is presented. -/
def Obligations.DecodingComesBeforeMarksAndResetBeforeAll : Prop :=
  (∀ w : CmdWord, decodeCommand w = .illegal .reservedOp ↔ 6 ≤ (w.extractLsb' 36 4).toNat) ∧
  (∀ w : CmdWord, decodeCommand w = .illegal .badField → (w.extractLsb' 36 4).toNat ≤ 5) ∧
  (∀ (s : State) (w : CmdWord) (c : IllegalCause), ready s = true → s.presented = some w →
    decodeCommand w = .illegal c → checkedStep s = .fault (.illegalCommand c)) ∧
  (∀ s t : State, step s = .next t → t.cmds = s.cmds ∨ t.cmds = s.cmds.tail) ∧
  (∀ (s : State) (cs : List CmdWord), s.currentAct = .reset →
    ∃ t, step s = .next t ∧ step { s with cmds := cs } = .next { t with cmds := cs } ∧ checkedStep s = step s)

/-- Decoding accepts exactly the well-formed words, and encoding what it gives is the word again (30_encoding.md section 2,
the inverse marked derived there). -/
def Obligations.DecoderAcceptsExactlyTheWellFormedWords : Prop :=
  ∀ w : CmdWord, ((CmdFields.ofWord w).wellFormed = true ↔ ∃ i, decodeCommand w = .command i) ∧
    ∀ i, decodeCommand w = .command i → encode i = .command w

/-- Every instruction: decoding the encoding of a well-formed instruction gives it back, with every operand at every value
(30_encoding.md section 2 and section 4). -/
def Obligations.DecodeOfEncodeIsTheInstruction : Prop :=
  ∀ i : Instr, i.wellFormed = true → decodeEncoded (encode i) = some i

/-- The opcode map of 30_encoding.md section 2: a word is a legal command exactly when a row's mask and pattern admit it,
the row is that command's, and no word is of two rows. -/
def Obligations.OpcodeMapIsExact : Prop :=
  (∀ (w : CmdWord) (n : Mnemonic), (∃ i, decodeCommand w = .command i ∧ i.mnemonic = n) ↔
    ∃ row ∈ opcodeMap, row.mnemonic = n ∧ row.admits w = true) ∧
  (∀ (w : CmdWord) (a b : Row), a ∈ opcodeMap → b ∈ opcodeMap → a.admits w = true → b.admits w = true → a = b)

/-- The sequencer word (30_encoding.md section 4): a word is a sequencer value's exactly when it is that value's encoding,
so exactly the 82 values have one each. -/
def Obligations.SequencerWordsAreExact : Prop :=
  ∀ (w : SeqWord) (q : Seq), Seq.ofWord w = some q ↔ w = q.word

/-- The worked encodings of 30_encoding.md section 5 decode to the commands they are given for. -/
def Obligations.WorkedEncodingsDecode : Prop :=
  ∀ p ∈ workedEncodings, decodeCommand p.1 = .command p.2 ∧ encode p.2 = .command p.1

/-! ### The arithmetic -/

/-- R8: the four operations. Addition wraps modulo 2^32; exclusive or and complement are bitwise; rotation to the right by
16, 12, 8 or 7 moves bit (i + n) mod 32 to bit i. -/
def Obligations.WordOperations : Prop :=
  (∀ a b : Word, (add32 a b).toNat = (a.toNat + b.toNat) % 2 ^ 32) ∧
  (∀ (a b : Word) (i : Fin 32), (xor32 a b).getLsbD i.val = (a.getLsbD i.val != b.getLsbD i.val)) ∧
  (∀ (a : Word) (i : Fin 32), (not32 a).getLsbD i.val = !a.getLsbD i.val) ∧
  (∀ (a : Word) (n : Nat) (i : Fin 32), n ∈ [16, 12, 8, 7] →
    (ror32 a n).getLsbD i.val = a.getLsbD ((i.val + n) % 32))

/-- A scheduled quarter-round is the source's in-place sequence of eight assignments on its four indices, which are distinct
(41_quarter_round.md section 1). -/
def Obligations.QuarterRoundIsTheInPlaceSequence : Prop :=
  ∀ (v m : Vector Word 16) (r : Fin 10) (s : Fin 8), gstep v m r s = mixInPlace v m (sched r s)

/-- G loses nothing: for fixed message words it is one to one on its four words (96_test_vectors_derived.md section 3.2,
where the spec marks it derived). -/
def Obligations.QuarterRoundIsOneToOne : Prop :=
  ∀ a b c d a' b' c' d' mx my : Word, quarter a b c d mx my = quarter a' b' c' d' mx my →
    a = a' ∧ b = b' ∧ c = c' ∧ d = d'

/-- The four quarter-rounds of a half-round commute (41_quarter_round.md section 3, where the spec marks it derived). -/
def Obligations.HalfRoundStepsCommute : Prop :=
  ∀ (v m : Vector Word 16) (r : Fin 10) (s s' : Fin 8), (s.val < 4 ↔ s'.val < 4) →
    gstep (gstep v m r s) m r s' = gstep (gstep v m r s') m r s

/-! ### The run of a compression -/

/-- R70: the successor function of the sequencer, and the only path from (MIX, 0, 0): eighty `G` steps to FEED, then IDLE. The
machine's steps follow it, and only a `COMP` starts it. -/
def Obligations.SequencerFollowsThePath : Prop :=
  (∀ (r : Fin 10) (s s' : Fin 8), s'.val = s.val + 1 → nextSeq r s = .mix r s') ∧
  (∀ r r' : Fin 10, r'.val = r.val + 1 → nextSeq r 7 = .mix r' 0) ∧
  nextSeq 9 7 = .feed ∧
  (∀ n : Fin 80, ∃ r s, Nat.iterate seqAfterMicro n.val (.mix 0 0) = .mix r s ∧ microsDone r s = n.val) ∧
  Nat.iterate seqAfterMicro 80 (.mix 0 0) = .feed ∧ Nat.iterate seqAfterMicro 81 (.mix 0 0) = .idle ∧
  (∀ (s : State) (i : Instr), NoReset s → s.seq.micro = some i → ∃ t, step s = .next t ∧ t.seq = seqAfterMicro s.seq) ∧
  ∀ (s t : State), step s = .next t → s.seq = .idle → t.seq ≠ .idle → t.seq = .mix 0 0 ∧
    ∃ w c f, s.presented = some w ∧ decodeCommand w = .command (.comp c f)

/-- While a compression runs, every step but a reset step takes exactly one of the steps left (42_round_scheduler.md section 3,
where the spec marks it derived). -/
def Obligations.EveryMicroStepComesNearerTheEnd : Prop :=
  ∀ s t : State, s.seq ≠ .idle → NoReset s → step s = .next t → stepsLeft s.seq = stepsLeft t.seq + 1

/-- A `COMP` takes exactly 82 steps from its acceptance to READY, whatever the data (40_compress.md section 4, where the spec
marks it derived); with a word of H or M unwritten the whole run is refused instead (10_state.md section 7). -/
def Obligations.CompressionTakes82Steps : Prop :=
  ∀ (s : State) (w : CmdWord) (c : Word) (f : Bool), ready s = true → s.presented = some w →
    decodeCommand w = .command (.comp c f) → NoResetAhead s →
    (AllWritten s → (∀ n : Nat, 1 ≤ n → n ≤ 81 → ∃ u, checkedRun n s = .next u ∧ ready u = false) ∧
      ∃ u, checkedRun 82 s = .next u ∧ ready u = true) ∧
    (¬ AllWritten s → ∀ n : Nat, 1 ≤ n → checkedRun n s = .refused .unwrittenRead)

/-- A run equals the function: when READY is 1 again, H is `compress` of the H and M the `COMP` was accepted with, M and
the latch are unchanged, and the run is not refused (40_compress.md section 4, where the spec marks it derived). With a word of
H or M unwritten nothing is claimed of the run but that it is refused, and that the machine's own run is marked so
(10_state.md section 7). -/
def Obligations.CompressionRunEqualsTheFunction : Prop :=
  ∀ (s : State) (w : CmdWord) (c : Word) (f : Bool), ready s = true → s.presented = some w →
    decodeCommand w = .command (.comp c f) → NoResetAhead s →
    (AllWritten s → ∃ u, checkedRun 82 s = .next u ∧ u.h = compress s.h s.m c f ∧ u.hMark = s.hMark ∧ SameM s u ∧
      SameLatch s u ∧ u.seq = .idle ∧ u.rsp = none ∧ u.refused = s.refused) ∧
    (¬ AllWritten s → ∀ n : Nat, 1 ≤ n → checkedRun n s = .refused .unwrittenRead ∧
      ∃ u : State, core.run n s = .next u ∧ u.refused = true)

/-! ### Rules of the whole machine -/

/-- The control invariant is kept by every step, from every state that has it. -/
def Obligations.EveryStepKeepsTheControlInvariant : Prop :=
  ∀ s t : State, ControlInv s → step s = .next t → ControlInv t

/-- The control invariant holds at reset. -/
def Obligations.ControlInvariantAtReset : Prop := ControlInv State.reset

/-- The written invariant is kept by every checked step: a checked run never reads an unwritten word inside a compression
(41_quarter_round.md section 2, 10_state.md section 6). -/
def Obligations.EveryCheckedStepKeepsTheWrittenInvariant : Prop :=
  ∀ s t : State, WrittenInv s → checkedStep s = .next t → WrittenInv t

/-- The written invariant holds at reset. -/
def Obligations.WrittenInvariantAtReset : Prop := WrittenInv State.reset

/-- What 10_state.md section 7 refuses: in a checked run, the acceptance of `COMP` is refused exactly when a word of H or M is
unwritten, `RDH i` exactly when `H[i]` is, and no other step is refused; and where it is refused the machine's own step
marks the run refused, and nowhere else. That this step goes on, on free values, is the model's choice of log 2. -/
def Obligations.UnwrittenReadsAreRefused : Prop :=
  (∀ (s : State) (w : CmdWord) (c : Word) (f : Bool), ready s = true → s.presented = some w →
    decodeCommand w = .command (.comp c f) →
    (checkedStep s = .refused .unwrittenRead ↔
      (∃ i : Fin 8, s.hMark[i] = false) ∨ ∃ j : Fin 16, s.mMark[j] = false)) ∧
  (∀ (s : State) (w : CmdWord) (i : Fin 8), ready s = true → s.presented = some w →
    decodeCommand w = .command (.rdh i) →
    (checkedStep s = .refused .unwrittenRead ↔ s.hMark[i] = false)) ∧
  (∀ (s : State) (r : Refusal), WrittenInv s → checkedStep s = .refused r → r = .unwrittenRead ∧ ready s = true ∧
    ∃ w, s.presented = some w ∧ ((∃ c f, decodeCommand w = .command (.comp c f)) ∨ ∃ i, decodeCommand w = .command (.rdh i))) ∧
  (∀ s t : State, checkedStep s = .next t → step s = .next t) ∧
  (∀ s t : State, step s = .next t → s.refused = false →
    (t.refused = true ↔ checkedStep s = .refused .unwrittenRead))

/-- What marks a run refused (10_state.md section 7): performing an instruction does exactly where it reads a word whose written
mark is 0, and nothing takes the mark back. The mark is the model's own field (log 2). -/
def Obligations.RunIsMarkedExactlyByUnwrittenReads : Prop :=
  (∀ (s t : State) (i : Instr), i = .nop ∨ i = .init ∨ (∃ k v, i = .ldh k v) ∨ (∃ j v, i = .ldm j v) →
    exec i s = .next t → t.refused = s.refused) ∧
  (∀ (s t : State) (c : Word) (f : Bool), exec (.comp c f) s = .next t →
    (t.refused = true ↔ s.refused = true ∨ (∃ i : Fin 8, s.hMark[i] = false) ∨ ∃ j : Fin 16, s.mMark[j] = false)) ∧
  (∀ (s t : State) (i : Fin 8), exec (.rdh i) s = .next t →
    (t.refused = true ↔ s.refused = true ∨ s.hMark[i] = false)) ∧
  (∀ (s t : State) (r : Fin 10) (k : Fin 8), exec (.g r k) s = .next t →
    (t.refused = true ↔ s.refused = true ∨
      let o := sched r k
      s.vMark[o.a] = false ∨ s.vMark[o.b] = false ∨ s.vMark[o.c] = false ∨ s.vMark[o.d] = false ∨
        s.mMark[o.x] = false ∨ s.mMark[o.y] = false)) ∧
  ∀ s t : State, exec .feed s = .next t →
    (t.refused = true ↔ s.refused = true ∨ (∃ i : Fin 8, s.hMark[i] = false) ∨ ∃ k : Fin 16, s.vMark[k] = false)

/-- The whole run is refused (10_state.md section 7). At reset no run is. A refused checked run is refused however much longer
it is, and the machine's own run is marked refused from there on, past a reset too. A checked run that is not refused is the
machine's own run, with the mark it started with; and a run of the machine that gets the mark has a checked run that is
refused, unless an illegal word ended that one before. The mark is the model's own field (log 2). -/
def Obligations.WholeRunIsRefused : Prop :=
  State.reset.refused = false ∧
  (∀ s t : State, step s = .next t → s.refused = true → t.refused = true) ∧
  (∀ (n : Nat) (s : State) (r : Refusal), checkedRun n s = .refused r → r = .unwrittenRead ∧
    ∀ m : Nat, n ≤ m → checkedRun m s = .refused r ∧ ∃ t : State, core.run m s = .next t ∧ t.refused = true) ∧
  (∀ (n : Nat) (s t : State), checkedRun n s = .next t → core.run n s = .next t ∧ t.refused = s.refused) ∧
  ∀ (n : Nat) (s t : State), core.run n s = .next t → s.refused = false → t.refused = true →
    checkedRun n s = .refused .unwrittenRead ∨ ∃ c, checkedRun n s = .fault (.illegalCommand c)

/-- The mark of a refused run is no part of the core: a step does the same to every other field, whatever the mark is
(10_state.md sections 1 and 7). -/
def Obligations.RefusedMarkInfluencesNothing : Prop :=
  ∀ (s t : State) (b : Bool), step s = .next t →
    ∃ b', step { s with refused := b } = .next { t with refused := b' } ∧ outputs { t with refused := b' } = outputs t

/-- H changes only by `INIT`, `LDH`, `FEED` and reset (43_state_accumulator.md section 5, where the spec marks it derived). -/
def Obligations.HChangesOnlyByInitLdhFeedReset : Prop :=
  ∀ s t : State, step s = .next t → t.h ≠ s.h →
    s.currentAct = .reset ∨ s.seq = .feed ∨
      (ready s = true ∧ ∃ w, s.presented = some w ∧
        (decodeCommand w = .command .init ∨ ∃ i v, decodeCommand w = .command (.ldh i v)))

/-- A response comes only from the acceptance of `RDH i`, and it is `H[i]` (30_encoding.md section 1, 43_state_accumulator.md
section 3). -/
def Obligations.OnlyRdhResponds : Prop :=
  ∀ (s t : State) (x : Word), step s = .next t → t.rsp = some x →
    ready s = true ∧ ∃ w i, s.presented = some w ∧ decodeCommand w = .command (.rdh i) ∧ x = s.h[i]

/-- M changes only by `LDM` and reset; no micro-step writes it (10_state.md section 2). -/
def Obligations.MChangesOnlyByLdmReset : Prop :=
  ∀ s t : State, step s = .next t → t.m ≠ s.m →
    s.currentAct = .reset ∨
      (ready s = true ∧ ∃ w j v, s.presented = some w ∧ decodeCommand w = .command (.ldm j v))

/-- The V left while PHASE is IDLE influences nothing: two idle states that differ in V alone step to states that differ in V
alone, and to the same state when the step starts a compression (10_state.md section 6). -/
def Obligations.IdleWorkingVectorIsNotObservable : Prop :=
  ∀ (s : State) (v : Vector Word 16) (marks : Vector Bool 16), s.seq = .idle →
    ∃ t t' : State, step s = .next t ∧ step { s with v := v, vMark := marks } = .next t' ∧
      { t' with v := t.v, vMark := t.vMark } = t ∧ outputs t' = outputs t ∧ (t.seq ≠ .idle → t' = t)

/-- The latch changes only by an illegal word or reset: once ERR is 1 no step but a reset step clears it, and CAUSE keeps the
cause of the first fault (60_exceptions.md section 2). -/
def Obligations.OnlyResetClearsTheError : Prop :=
  ∀ s t : State, step s = .next t → s.err = true → NoReset s → t.err = true ∧ t.cause = s.cause

/-- No step but a reset step clears a written mark (10_state.md section 6). -/
def Obligations.OnlyResetClearsAWrittenMark : Prop :=
  ∀ s t : State, step s = .next t → NoReset s →
    (∀ i : Fin 8, s.hMark[i] = true → t.hMark[i] = true) ∧ (∀ j : Fin 16, s.mMark[j] = true → t.mMark[j] = true) ∧
      ∀ k : Fin 16, s.vMark[k] = true → t.vMark[k] = true

/-! ### The host's software -/

/-- R30: word `2k` is the low half of slot `k`, word `2k + 1` the high half, on input and output. -/
def Obligations.SlotsPackLowWordFirst : Prop :=
  (∀ q : Slot, slotLow q = q.extractLsb' 0 32 ∧ slotHigh q = q.extractLsb' 32 32 ∧
    packSlot (slotLow q) (slotHigh q) = q) ∧
  (∀ a b : Word, slotLow (packSlot a b) = a ∧ slotHigh (packSlot a b) = b) ∧
  (∀ (qs : List Slot) (k : Nat) (h : k < qs.length),
    (slotWords qs)[2 * k]? = some (slotLow qs[k]) ∧ (slotWords qs)[2 * k + 1]? = some (slotHigh qs[k])) ∧
  ∀ (h : Vector Word 8) (k : Fin 4) (lo hi : Fin 8), lo.val = 2 * k.val → hi.val = 2 * k.val + 1 →
    slotLow (digestSlots h)[k] = h[lo] ∧ slotHigh (digestSlots h)[k] = h[hi]

/-- The blocks of a message of N words (44_host_sequences.md section 2): max(1, ceil(N / 16)) of them, the last and no other
with the final flag, the counter of block k at 64 (k + 1) before it and 4 N at the end. -/
def Obligations.GeneralHasherBlocks : Prop :=
  ∀ ws : List Word, (messageBlocks ws).length = max 1 ((ws.length + 15) / 16) ∧
    ∀ (k : Nat) (h : k < (messageBlocks ws).length),
      (messageBlocks ws)[k].final = decide (k + 1 = (messageBlocks ws).length) ∧
      (messageBlocks ws)[k].t = (if k + 1 = (messageBlocks ws).length then 4 * ws.length else 64 * (k + 1)) ∧
      ∀ j : Fin 16, (messageBlocks ws)[k].words[j] = (ws[16 * k + j.val]?).getD 0#32

/-- For sixteen words the two hashers send the same 26 commands (44_host_sequences.md section 3, where the spec marks it
derived). -/
def Obligations.TwoHashersAgreeOnOneBlock : Prop :=
  ∀ input : List Slot, input.length = 8 → hashGeneral input 4 = hashFixedBlock input 4 ∧
    ∃ is, hashGeneral input 4 = .ok is ∧ is.length = 26

/-- The host refuses, before any command, an output that is not 4 slots, a fixed-block input that is not 8, and a total input
of 2^32 bytes or more; it accepts every other call (44_host_sequences.md sections 4 and 5). Which is reported first is the
model's choice of log 16. -/
def Obligations.HashersRefuseExactlyWrongCalls : Prop :=
  ∀ (input : List Slot) (n : Nat),
    (hashGeneral input n = .error .bufferSize ↔ n ≠ 4) ∧
    (hashGeneral input n = .error .counterCeiling ↔ n = 4 ∧ 2 ^ 32 ≤ 8 * input.length) ∧
    ((∃ is, hashGeneral input n = .ok is) ↔ n = 4 ∧ 8 * input.length < 2 ^ 32) ∧
    (hashFixedBlock input n = .error .bufferSize ↔ ¬ (input.length = 8 ∧ n = 4)) ∧
    ((∃ is, hashFixedBlock input n = .ok is) ↔ input.length = 8 ∧ n = 4)

/-- The pseudo-instructions `LDM64` and `RDH64` split a slot low word first, and an operand out of range is refused
(30_encoding.md section 5). -/
def Obligations.PseudoInstructionsExpandLowWordFirst : Prop :=
  (∀ (k : Fin 8) (q : Slot), assemble (.ldm64 k.val q.toNat) =
    some [3#4 ++ BitVec.ofNat 4 (2 * k.val) ++ slotLow q, 3#4 ++ BitVec.ofNat 4 (2 * k.val + 1) ++ slotHigh q]) ∧
  (∀ k : Fin 4, assemble (.rdh64 k.val) =
    some [5#4 ++ 0#1 ++ BitVec.ofNat 3 (2 * k.val) ++ 0#32, 5#4 ++ 0#1 ++ BitVec.ofNat 3 (2 * k.val + 1) ++ 0#32]) ∧
  (∀ i v : Nat, 8 ≤ i ∨ 2 ^ 32 ≤ v → assemble (.ldh i v) = none) ∧
  (∀ j v : Nat, 16 ≤ j ∨ 2 ^ 32 ≤ v → assemble (.ldm j v) = none) ∧
  (∀ c f : Nat, 2 ^ 32 ≤ c ∨ 2 ≤ f → assemble (.comp c f) = none) ∧
  (∀ i : Nat, 8 ≤ i → assemble (.rdh i) = none)

/-- A whole job: from any state that is ready, with the general hasher's commands as its stream and no reset, the checked run
comes to a state that is ready with the digest in H and only the eight `RDH` commands left, whatever H, M and V held before
and whether they were written, and the next eight steps respond with the eight words of the digest in order; the job is not
refused (44_host_sequences.md sections 2 and 6, which rest on 40_compress.md section 4; 10_state.md section 7). -/
def Obligations.HashJobDeliversTheDigest : Prop :=
  ∀ (s : State) (ws : List Word), ready s = true → s.acts = [] →
    s.cmds = (hashCommands ws).filterMap Instr.commandWord →
    ∃ n : Nat, (∃ u, checkedRun n s = .next u ∧ ready u = true ∧ u.h = hashValue ws ∧
      u.cmds = readDigest.filterMap Instr.commandWord ∧ u.refused = s.refused) ∧
      ∀ k : Fin 8, ∃ x, checkedRun (n + (k.val + 1)) s = .next x ∧ x.rsp = some (hashValue ws)[k] ∧ ready x = true ∧
        x.h = hashValue ws ∧ x.refused = s.refused
end

