-- ==== Sys2Proof/Laws/Decode.lean ====
section
/-! SUPPORT. The fields of a word and back (30_encoding.md R41, R49), and the index fields read back from the encoder's. -/

namespace Sys2Proof

@[simp] theorem CmdFields.ofWord_toWord (f : CmdFields) : CmdFields.ofWord f.toWord = f := by
  cases f with
  | mk op idx data =>
    simp only [CmdFields.ofWord, CmdFields.toWord, CmdFields.mk.injEq]
    refine ⟨?_, ?_, ?_⟩ <;>
    · apply BitVec.eq_of_getLsbD_eq
      intro i hi
      simp only [BitVec.getLsbD_extractLsb', BitVec.getLsbD_append, hi, decide_true, Bool.true_and]
      (repeat' split) <;> first | omega | (congr 1; omega)

@[simp] theorem CmdFields.toWord_ofWord (w : CmdWord) : (CmdFields.ofWord w).toWord = w := by
  apply BitVec.eq_of_getLsbD_eq
  intro i hi
  simp only [CmdFields.ofWord, CmdFields.toWord, BitVec.getLsbD_append, BitVec.getLsbD_extractLsb']
  (repeat' split) <;> first
    | (rw [decide_eq_true (by omega), Bool.true_and]; congr 1; omega)

@[simp] theorem SeqFields.ofWord_toWord (q : SeqFields) : SeqFields.ofWord q.toWord = q := by
  cases q with
  | mk phase rnd step =>
    simp only [SeqFields.ofWord, SeqFields.toWord, SeqFields.mk.injEq]
    refine ⟨?_, ?_, ?_⟩ <;>
    · apply BitVec.eq_of_getLsbD_eq
      intro i hi
      simp only [BitVec.getLsbD_extractLsb', BitVec.getLsbD_append, hi, decide_true, Bool.true_and]
      (repeat' split) <;> first | omega | (congr 1; omega)

@[simp] theorem SeqFields.toWord_ofWord (w : SeqWord) : (SeqFields.ofWord w).toWord = w := by
  apply BitVec.eq_of_getLsbD_eq
  intro i hi
  simp only [SeqFields.ofWord, SeqFields.toWord, BitVec.getLsbD_append, BitVec.getLsbD_extractLsb']
  (repeat' split) <;> first
    | (rw [decide_eq_true (by omega), Bool.true_and]; congr 1; omega)

/-- Masking a command word is masking its fields. -/
theorem CmdFields.toWord_and (f g : CmdFields) :
    f.toWord &&& g.toWord = ({ op := f.op &&& g.op, idx := f.idx &&& g.idx, data := f.data &&& g.data } : CmdFields).toWord := by
  simp only [CmdFields.toWord]
  rw [← BitVec.and_append, ← BitVec.and_append]

/-- The decoder reads a word by its fields. -/
@[simp] theorem decodeCommand_toWord (f : CmdFields) : decodeCommand f.toWord = decodeFields f := by
  simp [decodeCommand]

/-- An H-index field gives the index back (30_encoding.md R44). -/
theorem hIndex_ofNat (op : BitVec 4) (i : Fin 8) (v : Word) :
    CmdFields.hIndex { op := op, idx := BitVec.ofNat 4 i.val, data := v } = i := by
  have h : ∀ i : Fin 8, ((BitVec.ofNat 4 i.val).extractLsb' 0 3).toFin = i := by decide
  exact h i

/-- An M-index field gives the index back (30_encoding.md R44). -/
theorem mIndex_ofNat (op : BitVec 4) (j : Fin 16) (v : Word) :
    CmdFields.mIndex { op := op, idx := BitVec.ofNat 4 j.val, data := v } = j := by
  have h : ∀ j : Fin 16, (BitVec.ofNat 4 j.val).toFin = j := by decide
  exact h j

/-- A command word is never a micro-operation (41_quarter_round.md R63, 43_state_accumulator.md R78). -/
theorem decodeCommand_ne_g (w : CmdWord) (r : Fin 10) (s : Fin 8) : decodeCommand w ≠ .command (.g r s) := by
  intro h
  unfold decodeCommand decodeFields at h
  split at h <;> (try split at h) <;> simp at h

theorem decodeCommand_ne_feed (w : CmdWord) : decodeCommand w ≠ .command .feed := by
  intro h
  unfold decodeCommand decodeFields at h
  split at h <;> (try split at h) <;> simp at h

end Sys2Proof
end

