-- ==== Sys2Proof/Laws/State.lean ====
section
/-! SUPPORT. What each operation of Machine/Ops.lean does to each field of State: the field it writes, and every other field kept. -/

namespace Sys2Proof.Machine

@[simp] theorem State.writeH_h (s : State) (i : Fin 8) (x : Word) :
    (s.writeH i x).h = s.h.set i x := rfl
@[simp] theorem State.writeH_m (s : State) (i : Fin 8) (x : Word) :
    (s.writeH i x).m = s.m := rfl
@[simp] theorem State.writeH_v (s : State) (i : Fin 8) (x : Word) :
    (s.writeH i x).v = s.v := rfl
@[simp] theorem State.writeH_hMark (s : State) (i : Fin 8) (x : Word) :
    (s.writeH i x).hMark = s.hMark.set i true := rfl
@[simp] theorem State.writeH_mMark (s : State) (i : Fin 8) (x : Word) :
    (s.writeH i x).mMark = s.mMark := rfl
@[simp] theorem State.writeH_vMark (s : State) (i : Fin 8) (x : Word) :
    (s.writeH i x).vMark = s.vMark := rfl
@[simp] theorem State.writeH_seq (s : State) (i : Fin 8) (x : Word) :
    (s.writeH i x).seq = s.seq := rfl
@[simp] theorem State.writeH_err (s : State) (i : Fin 8) (x : Word) :
    (s.writeH i x).err = s.err := rfl
@[simp] theorem State.writeH_cause (s : State) (i : Fin 8) (x : Word) :
    (s.writeH i x).cause = s.cause := rfl
@[simp] theorem State.writeH_rsp (s : State) (i : Fin 8) (x : Word) :
    (s.writeH i x).rsp = s.rsp := rfl
@[simp] theorem State.writeH_cmds (s : State) (i : Fin 8) (x : Word) :
    (s.writeH i x).cmds = s.cmds := rfl
@[simp] theorem State.writeH_acts (s : State) (i : Fin 8) (x : Word) :
    (s.writeH i x).acts = s.acts := rfl
@[simp] theorem State.writeH_resets (s : State) (i : Fin 8) (x : Word) :
    (s.writeH i x).resets = s.resets := rfl
@[simp] theorem State.writeH_refused (s : State) (i : Fin 8) (x : Word) :
    (s.writeH i x).refused = s.refused := rfl

@[simp] theorem State.writeM_h (s : State) (j : Fin 16) (x : Word) :
    (s.writeM j x).h = s.h := rfl
@[simp] theorem State.writeM_m (s : State) (j : Fin 16) (x : Word) :
    (s.writeM j x).m = s.m.set j x := rfl
@[simp] theorem State.writeM_v (s : State) (j : Fin 16) (x : Word) :
    (s.writeM j x).v = s.v := rfl
@[simp] theorem State.writeM_hMark (s : State) (j : Fin 16) (x : Word) :
    (s.writeM j x).hMark = s.hMark := rfl
@[simp] theorem State.writeM_mMark (s : State) (j : Fin 16) (x : Word) :
    (s.writeM j x).mMark = s.mMark.set j true := rfl
@[simp] theorem State.writeM_vMark (s : State) (j : Fin 16) (x : Word) :
    (s.writeM j x).vMark = s.vMark := rfl
@[simp] theorem State.writeM_seq (s : State) (j : Fin 16) (x : Word) :
    (s.writeM j x).seq = s.seq := rfl
@[simp] theorem State.writeM_err (s : State) (j : Fin 16) (x : Word) :
    (s.writeM j x).err = s.err := rfl
@[simp] theorem State.writeM_cause (s : State) (j : Fin 16) (x : Word) :
    (s.writeM j x).cause = s.cause := rfl
@[simp] theorem State.writeM_rsp (s : State) (j : Fin 16) (x : Word) :
    (s.writeM j x).rsp = s.rsp := rfl
@[simp] theorem State.writeM_cmds (s : State) (j : Fin 16) (x : Word) :
    (s.writeM j x).cmds = s.cmds := rfl
@[simp] theorem State.writeM_acts (s : State) (j : Fin 16) (x : Word) :
    (s.writeM j x).acts = s.acts := rfl
@[simp] theorem State.writeM_resets (s : State) (j : Fin 16) (x : Word) :
    (s.writeM j x).resets = s.resets := rfl
@[simp] theorem State.writeM_refused (s : State) (j : Fin 16) (x : Word) :
    (s.writeM j x).refused = s.refused := rfl

@[simp] theorem State.loadH_h (s : State) (ws : Vector Word 8) :
    (s.loadH ws).h = ws := rfl
@[simp] theorem State.loadH_m (s : State) (ws : Vector Word 8) :
    (s.loadH ws).m = s.m := rfl
@[simp] theorem State.loadH_v (s : State) (ws : Vector Word 8) :
    (s.loadH ws).v = s.v := rfl
@[simp] theorem State.loadH_hMark (s : State) (ws : Vector Word 8) :
    (s.loadH ws).hMark = Vector.replicate 8 true := rfl
@[simp] theorem State.loadH_mMark (s : State) (ws : Vector Word 8) :
    (s.loadH ws).mMark = s.mMark := rfl
@[simp] theorem State.loadH_vMark (s : State) (ws : Vector Word 8) :
    (s.loadH ws).vMark = s.vMark := rfl
@[simp] theorem State.loadH_seq (s : State) (ws : Vector Word 8) :
    (s.loadH ws).seq = s.seq := rfl
@[simp] theorem State.loadH_err (s : State) (ws : Vector Word 8) :
    (s.loadH ws).err = s.err := rfl
@[simp] theorem State.loadH_cause (s : State) (ws : Vector Word 8) :
    (s.loadH ws).cause = s.cause := rfl
@[simp] theorem State.loadH_rsp (s : State) (ws : Vector Word 8) :
    (s.loadH ws).rsp = s.rsp := rfl
@[simp] theorem State.loadH_cmds (s : State) (ws : Vector Word 8) :
    (s.loadH ws).cmds = s.cmds := rfl
@[simp] theorem State.loadH_acts (s : State) (ws : Vector Word 8) :
    (s.loadH ws).acts = s.acts := rfl
@[simp] theorem State.loadH_resets (s : State) (ws : Vector Word 8) :
    (s.loadH ws).resets = s.resets := rfl
@[simp] theorem State.loadH_refused (s : State) (ws : Vector Word 8) :
    (s.loadH ws).refused = s.refused := rfl

@[simp] theorem State.loadV_h (s : State) (ws : Vector Word 16) :
    (s.loadV ws).h = s.h := rfl
@[simp] theorem State.loadV_m (s : State) (ws : Vector Word 16) :
    (s.loadV ws).m = s.m := rfl
@[simp] theorem State.loadV_v (s : State) (ws : Vector Word 16) :
    (s.loadV ws).v = ws := rfl
@[simp] theorem State.loadV_hMark (s : State) (ws : Vector Word 16) :
    (s.loadV ws).hMark = s.hMark := rfl
@[simp] theorem State.loadV_mMark (s : State) (ws : Vector Word 16) :
    (s.loadV ws).mMark = s.mMark := rfl
@[simp] theorem State.loadV_vMark (s : State) (ws : Vector Word 16) :
    (s.loadV ws).vMark = Vector.replicate 16 true := rfl
@[simp] theorem State.loadV_seq (s : State) (ws : Vector Word 16) :
    (s.loadV ws).seq = s.seq := rfl
@[simp] theorem State.loadV_err (s : State) (ws : Vector Word 16) :
    (s.loadV ws).err = s.err := rfl
@[simp] theorem State.loadV_cause (s : State) (ws : Vector Word 16) :
    (s.loadV ws).cause = s.cause := rfl
@[simp] theorem State.loadV_rsp (s : State) (ws : Vector Word 16) :
    (s.loadV ws).rsp = s.rsp := rfl
@[simp] theorem State.loadV_cmds (s : State) (ws : Vector Word 16) :
    (s.loadV ws).cmds = s.cmds := rfl
@[simp] theorem State.loadV_acts (s : State) (ws : Vector Word 16) :
    (s.loadV ws).acts = s.acts := rfl
@[simp] theorem State.loadV_resets (s : State) (ws : Vector Word 16) :
    (s.loadV ws).resets = s.resets := rfl
@[simp] theorem State.loadV_refused (s : State) (ws : Vector Word 16) :
    (s.loadV ws).refused = s.refused := rfl

@[simp] theorem State.updateH_h (s : State) (ws : Vector Word 8) :
    (s.updateH ws).h = ws := rfl
@[simp] theorem State.updateH_m (s : State) (ws : Vector Word 8) :
    (s.updateH ws).m = s.m := rfl
@[simp] theorem State.updateH_v (s : State) (ws : Vector Word 8) :
    (s.updateH ws).v = s.v := rfl
@[simp] theorem State.updateH_hMark (s : State) (ws : Vector Word 8) :
    (s.updateH ws).hMark = s.hMark := rfl
@[simp] theorem State.updateH_mMark (s : State) (ws : Vector Word 8) :
    (s.updateH ws).mMark = s.mMark := rfl
@[simp] theorem State.updateH_vMark (s : State) (ws : Vector Word 8) :
    (s.updateH ws).vMark = s.vMark := rfl
@[simp] theorem State.updateH_seq (s : State) (ws : Vector Word 8) :
    (s.updateH ws).seq = s.seq := rfl
@[simp] theorem State.updateH_err (s : State) (ws : Vector Word 8) :
    (s.updateH ws).err = s.err := rfl
@[simp] theorem State.updateH_cause (s : State) (ws : Vector Word 8) :
    (s.updateH ws).cause = s.cause := rfl
@[simp] theorem State.updateH_rsp (s : State) (ws : Vector Word 8) :
    (s.updateH ws).rsp = s.rsp := rfl
@[simp] theorem State.updateH_cmds (s : State) (ws : Vector Word 8) :
    (s.updateH ws).cmds = s.cmds := rfl
@[simp] theorem State.updateH_acts (s : State) (ws : Vector Word 8) :
    (s.updateH ws).acts = s.acts := rfl
@[simp] theorem State.updateH_resets (s : State) (ws : Vector Word 8) :
    (s.updateH ws).resets = s.resets := rfl
@[simp] theorem State.updateH_refused (s : State) (ws : Vector Word 8) :
    (s.updateH ws).refused = s.refused := rfl

@[simp] theorem State.updateV_h (s : State) (ws : Vector Word 16) :
    (s.updateV ws).h = s.h := rfl
@[simp] theorem State.updateV_m (s : State) (ws : Vector Word 16) :
    (s.updateV ws).m = s.m := rfl
@[simp] theorem State.updateV_v (s : State) (ws : Vector Word 16) :
    (s.updateV ws).v = ws := rfl
@[simp] theorem State.updateV_hMark (s : State) (ws : Vector Word 16) :
    (s.updateV ws).hMark = s.hMark := rfl
@[simp] theorem State.updateV_mMark (s : State) (ws : Vector Word 16) :
    (s.updateV ws).mMark = s.mMark := rfl
@[simp] theorem State.updateV_vMark (s : State) (ws : Vector Word 16) :
    (s.updateV ws).vMark = s.vMark := rfl
@[simp] theorem State.updateV_seq (s : State) (ws : Vector Word 16) :
    (s.updateV ws).seq = s.seq := rfl
@[simp] theorem State.updateV_err (s : State) (ws : Vector Word 16) :
    (s.updateV ws).err = s.err := rfl
@[simp] theorem State.updateV_cause (s : State) (ws : Vector Word 16) :
    (s.updateV ws).cause = s.cause := rfl
@[simp] theorem State.updateV_rsp (s : State) (ws : Vector Word 16) :
    (s.updateV ws).rsp = s.rsp := rfl
@[simp] theorem State.updateV_cmds (s : State) (ws : Vector Word 16) :
    (s.updateV ws).cmds = s.cmds := rfl
@[simp] theorem State.updateV_acts (s : State) (ws : Vector Word 16) :
    (s.updateV ws).acts = s.acts := rfl
@[simp] theorem State.updateV_resets (s : State) (ws : Vector Word 16) :
    (s.updateV ws).resets = s.resets := rfl
@[simp] theorem State.updateV_refused (s : State) (ws : Vector Word 16) :
    (s.updateV ws).refused = s.refused := rfl

@[simp] theorem State.setSeq_h (s : State) (q : Seq) :
    (s.setSeq q).h = s.h := rfl
@[simp] theorem State.setSeq_m (s : State) (q : Seq) :
    (s.setSeq q).m = s.m := rfl
@[simp] theorem State.setSeq_v (s : State) (q : Seq) :
    (s.setSeq q).v = s.v := rfl
@[simp] theorem State.setSeq_hMark (s : State) (q : Seq) :
    (s.setSeq q).hMark = s.hMark := rfl
@[simp] theorem State.setSeq_mMark (s : State) (q : Seq) :
    (s.setSeq q).mMark = s.mMark := rfl
@[simp] theorem State.setSeq_vMark (s : State) (q : Seq) :
    (s.setSeq q).vMark = s.vMark := rfl
@[simp] theorem State.setSeq_seq (s : State) (q : Seq) :
    (s.setSeq q).seq = q := rfl
@[simp] theorem State.setSeq_err (s : State) (q : Seq) :
    (s.setSeq q).err = s.err := rfl
@[simp] theorem State.setSeq_cause (s : State) (q : Seq) :
    (s.setSeq q).cause = s.cause := rfl
@[simp] theorem State.setSeq_rsp (s : State) (q : Seq) :
    (s.setSeq q).rsp = s.rsp := rfl
@[simp] theorem State.setSeq_cmds (s : State) (q : Seq) :
    (s.setSeq q).cmds = s.cmds := rfl
@[simp] theorem State.setSeq_acts (s : State) (q : Seq) :
    (s.setSeq q).acts = s.acts := rfl
@[simp] theorem State.setSeq_resets (s : State) (q : Seq) :
    (s.setSeq q).resets = s.resets := rfl
@[simp] theorem State.setSeq_refused (s : State) (q : Seq) :
    (s.setSeq q).refused = s.refused := rfl

@[simp] theorem State.noteRead_h (s : State) (b : Bool) :
    (s.noteRead b).h = s.h := rfl
@[simp] theorem State.noteRead_m (s : State) (b : Bool) :
    (s.noteRead b).m = s.m := rfl
@[simp] theorem State.noteRead_v (s : State) (b : Bool) :
    (s.noteRead b).v = s.v := rfl
@[simp] theorem State.noteRead_hMark (s : State) (b : Bool) :
    (s.noteRead b).hMark = s.hMark := rfl
@[simp] theorem State.noteRead_mMark (s : State) (b : Bool) :
    (s.noteRead b).mMark = s.mMark := rfl
@[simp] theorem State.noteRead_vMark (s : State) (b : Bool) :
    (s.noteRead b).vMark = s.vMark := rfl
@[simp] theorem State.noteRead_seq (s : State) (b : Bool) :
    (s.noteRead b).seq = s.seq := rfl
@[simp] theorem State.noteRead_err (s : State) (b : Bool) :
    (s.noteRead b).err = s.err := rfl
@[simp] theorem State.noteRead_cause (s : State) (b : Bool) :
    (s.noteRead b).cause = s.cause := rfl
@[simp] theorem State.noteRead_rsp (s : State) (b : Bool) :
    (s.noteRead b).rsp = s.rsp := rfl
@[simp] theorem State.noteRead_cmds (s : State) (b : Bool) :
    (s.noteRead b).cmds = s.cmds := rfl
@[simp] theorem State.noteRead_acts (s : State) (b : Bool) :
    (s.noteRead b).acts = s.acts := rfl
@[simp] theorem State.noteRead_resets (s : State) (b : Bool) :
    (s.noteRead b).resets = s.resets := rfl
@[simp] theorem State.noteRead_refused (s : State) (b : Bool) :
    (s.noteRead b).refused = (s.refused || b) := rfl

@[simp] theorem State.respond_h (s : State) (x : Word) :
    (s.respond x).h = s.h := rfl
@[simp] theorem State.respond_m (s : State) (x : Word) :
    (s.respond x).m = s.m := rfl
@[simp] theorem State.respond_v (s : State) (x : Word) :
    (s.respond x).v = s.v := rfl
@[simp] theorem State.respond_hMark (s : State) (x : Word) :
    (s.respond x).hMark = s.hMark := rfl
@[simp] theorem State.respond_mMark (s : State) (x : Word) :
    (s.respond x).mMark = s.mMark := rfl
@[simp] theorem State.respond_vMark (s : State) (x : Word) :
    (s.respond x).vMark = s.vMark := rfl
@[simp] theorem State.respond_seq (s : State) (x : Word) :
    (s.respond x).seq = s.seq := rfl
@[simp] theorem State.respond_err (s : State) (x : Word) :
    (s.respond x).err = s.err := rfl
@[simp] theorem State.respond_cause (s : State) (x : Word) :
    (s.respond x).cause = s.cause := rfl
@[simp] theorem State.respond_rsp (s : State) (x : Word) :
    (s.respond x).rsp = some x := rfl
@[simp] theorem State.respond_cmds (s : State) (x : Word) :
    (s.respond x).cmds = s.cmds := rfl
@[simp] theorem State.respond_acts (s : State) (x : Word) :
    (s.respond x).acts = s.acts := rfl
@[simp] theorem State.respond_resets (s : State) (x : Word) :
    (s.respond x).resets = s.resets := rfl
@[simp] theorem State.respond_refused (s : State) (x : Word) :
    (s.respond x).refused = s.refused := rfl

@[simp] theorem State.noResponse_h (s : State) :
    s.noResponse.h = s.h := rfl
@[simp] theorem State.noResponse_m (s : State) :
    s.noResponse.m = s.m := rfl
@[simp] theorem State.noResponse_v (s : State) :
    s.noResponse.v = s.v := rfl
@[simp] theorem State.noResponse_hMark (s : State) :
    s.noResponse.hMark = s.hMark := rfl
@[simp] theorem State.noResponse_mMark (s : State) :
    s.noResponse.mMark = s.mMark := rfl
@[simp] theorem State.noResponse_vMark (s : State) :
    s.noResponse.vMark = s.vMark := rfl
@[simp] theorem State.noResponse_seq (s : State) :
    s.noResponse.seq = s.seq := rfl
@[simp] theorem State.noResponse_err (s : State) :
    s.noResponse.err = s.err := rfl
@[simp] theorem State.noResponse_cause (s : State) :
    s.noResponse.cause = s.cause := rfl
@[simp] theorem State.noResponse_rsp (s : State) :
    s.noResponse.rsp = none := rfl
@[simp] theorem State.noResponse_cmds (s : State) :
    s.noResponse.cmds = s.cmds := rfl
@[simp] theorem State.noResponse_acts (s : State) :
    s.noResponse.acts = s.acts := rfl
@[simp] theorem State.noResponse_resets (s : State) :
    s.noResponse.resets = s.resets := rfl
@[simp] theorem State.noResponse_refused (s : State) :
    s.noResponse.refused = s.refused := rfl

@[simp] theorem State.raiseIllegal_h (s : State) (c : IllegalCause) :
    (s.raiseIllegal c).h = s.h := rfl
@[simp] theorem State.raiseIllegal_m (s : State) (c : IllegalCause) :
    (s.raiseIllegal c).m = s.m := rfl
@[simp] theorem State.raiseIllegal_v (s : State) (c : IllegalCause) :
    (s.raiseIllegal c).v = s.v := rfl
@[simp] theorem State.raiseIllegal_hMark (s : State) (c : IllegalCause) :
    (s.raiseIllegal c).hMark = s.hMark := rfl
@[simp] theorem State.raiseIllegal_mMark (s : State) (c : IllegalCause) :
    (s.raiseIllegal c).mMark = s.mMark := rfl
@[simp] theorem State.raiseIllegal_vMark (s : State) (c : IllegalCause) :
    (s.raiseIllegal c).vMark = s.vMark := rfl
@[simp] theorem State.raiseIllegal_seq (s : State) (c : IllegalCause) :
    (s.raiseIllegal c).seq = s.seq := rfl
@[simp] theorem State.raiseIllegal_err (s : State) (c : IllegalCause) :
    (s.raiseIllegal c).err = true := rfl
@[simp] theorem State.raiseIllegal_cause (s : State) (c : IllegalCause) :
    (s.raiseIllegal c).cause = some c := rfl
@[simp] theorem State.raiseIllegal_rsp (s : State) (c : IllegalCause) :
    (s.raiseIllegal c).rsp = none := rfl
@[simp] theorem State.raiseIllegal_cmds (s : State) (c : IllegalCause) :
    (s.raiseIllegal c).cmds = s.cmds := rfl
@[simp] theorem State.raiseIllegal_acts (s : State) (c : IllegalCause) :
    (s.raiseIllegal c).acts = s.acts := rfl
@[simp] theorem State.raiseIllegal_resets (s : State) (c : IllegalCause) :
    (s.raiseIllegal c).resets = s.resets := rfl
@[simp] theorem State.raiseIllegal_refused (s : State) (c : IllegalCause) :
    (s.raiseIllegal c).refused = s.refused := rfl

@[simp] theorem State.advanceHost_h (s : State) :
    s.advanceHost.h = s.h := rfl
@[simp] theorem State.advanceHost_m (s : State) :
    s.advanceHost.m = s.m := rfl
@[simp] theorem State.advanceHost_v (s : State) :
    s.advanceHost.v = s.v := rfl
@[simp] theorem State.advanceHost_hMark (s : State) :
    s.advanceHost.hMark = s.hMark := rfl
@[simp] theorem State.advanceHost_mMark (s : State) :
    s.advanceHost.mMark = s.mMark := rfl
@[simp] theorem State.advanceHost_vMark (s : State) :
    s.advanceHost.vMark = s.vMark := rfl
@[simp] theorem State.advanceHost_seq (s : State) :
    s.advanceHost.seq = s.seq := rfl
@[simp] theorem State.advanceHost_err (s : State) :
    s.advanceHost.err = s.err := rfl
@[simp] theorem State.advanceHost_cause (s : State) :
    s.advanceHost.cause = s.cause := rfl
@[simp] theorem State.advanceHost_rsp (s : State) :
    s.advanceHost.rsp = s.rsp := rfl
@[simp] theorem State.advanceHost_cmds (s : State) :
    s.advanceHost.cmds = if s.currentAct = .withdraw then s.cmds.tail else s.cmds := rfl
@[simp] theorem State.advanceHost_acts (s : State) :
    s.advanceHost.acts = s.acts.tail := rfl
@[simp] theorem State.advanceHost_resets (s : State) :
    s.advanceHost.resets = s.resets := rfl
@[simp] theorem State.advanceHost_refused (s : State) :
    s.advanceHost.refused = s.refused := rfl

@[simp] theorem State.takeCommand_h (s : State) :
    s.takeCommand.h = s.h := rfl
@[simp] theorem State.takeCommand_m (s : State) :
    s.takeCommand.m = s.m := rfl
@[simp] theorem State.takeCommand_v (s : State) :
    s.takeCommand.v = s.v := rfl
@[simp] theorem State.takeCommand_hMark (s : State) :
    s.takeCommand.hMark = s.hMark := rfl
@[simp] theorem State.takeCommand_mMark (s : State) :
    s.takeCommand.mMark = s.mMark := rfl
@[simp] theorem State.takeCommand_vMark (s : State) :
    s.takeCommand.vMark = s.vMark := rfl
@[simp] theorem State.takeCommand_seq (s : State) :
    s.takeCommand.seq = s.seq := rfl
@[simp] theorem State.takeCommand_err (s : State) :
    s.takeCommand.err = s.err := rfl
@[simp] theorem State.takeCommand_cause (s : State) :
    s.takeCommand.cause = s.cause := rfl
@[simp] theorem State.takeCommand_rsp (s : State) :
    s.takeCommand.rsp = s.rsp := rfl
@[simp] theorem State.takeCommand_cmds (s : State) :
    s.takeCommand.cmds = s.cmds.tail := rfl
@[simp] theorem State.takeCommand_acts (s : State) :
    s.takeCommand.acts = s.acts := rfl
@[simp] theorem State.takeCommand_resets (s : State) :
    s.takeCommand.resets = s.resets := rfl
@[simp] theorem State.takeCommand_refused (s : State) :
    s.takeCommand.refused = s.refused := rfl

@[simp] theorem State.resetStep_h (s : State) :
    s.resetStep.h = Vector.ofFn (Config.resetH (s.resets + 1)) := rfl
@[simp] theorem State.resetStep_m (s : State) :
    s.resetStep.m = Vector.ofFn (Config.resetM (s.resets + 1)) := rfl
@[simp] theorem State.resetStep_v (s : State) :
    s.resetStep.v = Vector.ofFn (Config.resetV (s.resets + 1)) := rfl
@[simp] theorem State.resetStep_hMark (s : State) :
    s.resetStep.hMark = Vector.replicate 8 false := rfl
@[simp] theorem State.resetStep_mMark (s : State) :
    s.resetStep.mMark = Vector.replicate 16 false := rfl
@[simp] theorem State.resetStep_vMark (s : State) :
    s.resetStep.vMark = Vector.replicate 16 false := rfl
@[simp] theorem State.resetStep_seq (s : State) :
    s.resetStep.seq = .idle := rfl
@[simp] theorem State.resetStep_err (s : State) :
    s.resetStep.err = false := rfl
@[simp] theorem State.resetStep_cause (s : State) :
    s.resetStep.cause = none := rfl
@[simp] theorem State.resetStep_rsp (s : State) :
    s.resetStep.rsp = none := rfl
@[simp] theorem State.resetStep_cmds (s : State) :
    s.resetStep.cmds = s.cmds := rfl
@[simp] theorem State.resetStep_acts (s : State) :
    s.resetStep.acts = s.acts := rfl
@[simp] theorem State.resetStep_resets (s : State) :
    s.resetStep.resets = s.resets + 1 := rfl
@[simp] theorem State.resetStep_refused (s : State) :
    s.resetStep.refused = s.refused := rfl

/-- Which act is next depends on the acts alone. -/
theorem State.currentAct_congr (s t : State) (h : s.acts = t.acts) : s.currentAct = t.currentAct := by
  unfold State.currentAct; rw [h]

end Sys2Proof.Machine
end

