-- ==== Sys2Proof/Laws/Exec.lean ====
section
/-! SUPPORT. What each meaning answers, as the named operations it is made of, and what no meaning changes. -/

namespace Sys2Proof.Machine

@[simp] theorem exec_nop (s : State) : exec .nop s = .next s.noResponse := rfl

@[simp] theorem exec_init (s : State) : exec .init s = .next (s.loadH initialH).noResponse := rfl

@[simp] theorem exec_ldh (i : Fin 8) (v : Word) (s : State) :
    exec (.ldh i v) s = .next (s.writeH i v).noResponse := rfl

@[simp] theorem exec_ldm (j : Fin 16) (v : Word) (s : State) :
    exec (.ldm j v) s = .next (s.writeM j v).noResponse := rfl

@[simp] theorem exec_comp (t : Word) (f : Bool) (s : State) :
    exec (.comp t f) s =
      .next (((s.noteRead (readsUnwritten (.comp t f) s)).loadV (setup s.h t f)).setSeq (.mix 0 0)).noResponse := rfl

@[simp] theorem exec_rdh (i : Fin 8) (s : State) : 
    exec (.rdh i) s = .next ((s.noteRead (readsUnwritten (.rdh i) s)).respond (s.readH i)) := rfl

@[simp] theorem exec_g (r : Fin 10) (k : Fin 8) (s : State) :
    exec (.g r k) s =
      .next (((s.noteRead (readsUnwritten (.g r k) s)).updateV (gstep s.v s.m r k)).setSeq (nextSeq r k)).noResponse := rfl

@[simp] theorem exec_feed (s : State) :
    exec .feed s =
      .next (((s.noteRead (readsUnwritten .feed s)).updateH (feed s.h s.v)).setSeq .idle).noResponse := rfl

@[simp] theorem readH_eq (s : State) (i : Fin 8) : s.readH i = s.h[i] := rfl

/-- Every meaning answers a next state, in every state. -/
theorem exec_answers (i : Instr) (s : State) : ∃ t, exec i s = .next t := by
  cases i <;> exact ⟨_, rfl⟩

/-- No meaning touches the error latch, the host's stream or the reset counter. -/
theorem exec_keeps_latch_and_stream {i : Instr} {s t : State} (h : exec i s = .next t) :
    t.err = s.err ∧ t.cause = s.cause ∧ t.cmds = s.cmds ∧ t.acts = s.acts ∧ t.resets = s.resets := by
  cases i <;> (simp only [exec_nop, exec_init, exec_ldh, exec_ldm, exec_comp, exec_rdh, exec_g, exec_feed,
    Host.Outcome.next.injEq] at h; subst h; simp)

/-- A meaning marks the run refused exactly when it reads a word nothing has written (10_state.md R27). -/
theorem exec_refused {i : Instr} {s t : State} (h : exec i s = .next t) :
    t.refused = (s.refused || readsUnwritten i s) := by
  cases i <;> (simp only [exec_nop, exec_init, exec_ldh, exec_ldm, exec_comp, exec_rdh, exec_g, exec_feed,
    Host.Outcome.next.injEq] at h; subst h; simp [readsUnwritten])

/-- The words of two joined halves. -/
@[simp] theorem joinHalves_getElem (lo hi : Vector Word 8) (k : Nat) (hk : k < 16) :
    (joinHalves lo hi)[k] = if h : k < 8 then lo[k] else hi[k - 8] := by
  simp [joinHalves]

/-- The first half of the set-up is H, whatever the counter and the flag (40_compress.md R55). -/
theorem setup_low (h : Vector Word 8) (t : Word) (f : Bool) (i : Fin 8) : (setup h t f)[i.val] = h[i] := by
  have hi := i.isLt
  have h12 : ¬ 12 = i.val := by omega
  have h14 : ¬ 14 = i.val := by omega
  cases f <;> simp [setup, h12, h14]

/-- A register array after one word of it was written. -/
theorem set_getElem_fin {α : Type} {n : Nat} (v : Vector α n) (i k : Fin n) (x : α) :
    (v.set i x)[k] = if k = i then x else v[k] := by
  simp only [Fin.getElem_fin, Vector.getElem_set, Fin.ext_iff, eq_comm]

/-- The words of a fed-forward hash state (43_state_accumulator.md R79). -/
@[simp] theorem feed_getElem (h : Vector Word 8) (v : Vector Word 16) (i : Nat) (hi : i < 8) :
    (feed h v)[i] = h[i] ^^^ (v[i] ^^^ v[i + 8]) := by
  simp [feed, xor32]

end Sys2Proof.Machine
end

