-- ==== Sys2Proof/Laws/Marks.lean ====
section
/-! SUPPORT. The written marks as statements about every word. -/

namespace Sys2Proof.Machine

theorem allH_iff (s : State) : allH s = true ↔ ∀ i : Fin 8, s.hMark[i] = true := by simp [allH]

theorem allM_iff (s : State) : allM s = true ↔ ∀ j : Fin 16, s.mMark[j] = true := by simp [allM]

theorem allV_iff (s : State) : allV s = true ↔ ∀ k : Fin 16, s.vMark[k] = true := by simp [allV]

theorem allScheduled_iff (r : Fin 10) (k : Fin 8) (s : State) :
    allScheduled r k s = true ↔ s.vMark[(sched r k).a] = true ∧ s.vMark[(sched r k).b] = true ∧
      s.vMark[(sched r k).c] = true ∧ s.vMark[(sched r k).d] = true ∧ s.mMark[(sched r k).x] = true ∧
      s.mMark[(sched r k).y] = true := by
  simp [allScheduled, and_assoc]

/-- Which reads are of unwritten words depends on the written marks alone. -/
theorem readsUnwritten_congr (i : Instr) {s t : State} (hh : s.hMark = t.hMark) (hm : s.mMark = t.mMark)
    (hv : s.vMark = t.vMark) : readsUnwritten i s = readsUnwritten i t := by
  cases i <;> simp [readsUnwritten, allH, allM, allV, allScheduled, hh, hm, hv]

end Sys2Proof.Machine
end

