-- ==== Sys2Proof/Laws/PerInstr.lean ====
section
/-! SUPPORT. Statements about every instruction as syntax, one lemma per constructor. Family `Encoding`: the instruction is
well formed, and its word is one its own row of the opcode table admits (30_encoding.md R43, R50). -/

namespace Sys2Proof.Laws.Encoding

/-- A command word is admitted by the opcode map's row of its mnemonic (R43); a sequencer word has the pattern of its
micro-operation (R50). -/
def OfItsRow (i : Instr) : Encoded → Prop
  | .command w => ∃ row ∈ opcodeMap, row.mnemonic = i.mnemonic ∧ row.admits w = true
  | .sequencer w =>
    (i.mnemonic = .G ∧ w &&& 0x180#9 = 0x080#9) ∨ (i.mnemonic = .FEED ∧ w &&& 0x1FF#9 = 0x100#9)

/-- The instruction is well formed and its word is of its row. -/
def Statement (i : Instr) : Prop := i.wellFormed = true ∧ OfItsRow i (encode i)

theorem nop : Statement .nop :=
  ⟨by decide, _, .head _, rfl, by decide⟩

theorem init : Statement .init :=
  ⟨by decide, _, .tail _ (.head _), rfl, by decide⟩

theorem ldh (i : Fin 8) (v : Word) : Statement (.ldh i v) := by
  have hw : ∀ i : Fin 8, (!(BitVec.ofNat 4 i.val).getLsbD 3) = true := by decide
  have hm : ∀ i : Fin 8, BitVec.ofNat 4 i.val &&& 8#4 = 0#4 := by decide
  refine ⟨hw i, _, .tail _ (.tail _ (.head _)), rfl, beq_iff_eq.2 ?_⟩
  refine (CmdFields.toWord_and _ { op := 0xF#4, idx := 8#4, data := 0#32 }).trans ?_
  rw [hm i, BitVec.and_zero]
  exact (by decide : (CmdFields.mk (2#4 &&& 0xF#4) 0#4 0#32).toWord = 0x2000000000#40)

theorem ldm (j : Fin 16) (v : Word) : Statement (.ldm j v) := by
  refine ⟨rfl, _, .tail _ (.tail _ (.tail _ (.head _))), rfl, beq_iff_eq.2 ?_⟩
  refine (CmdFields.toWord_and _ { op := 0xF#4, idx := 0#4, data := 0#32 }).trans ?_
  rw [BitVec.and_zero, BitVec.and_zero]
  exact (by decide : (CmdFields.mk (3#4 &&& 0xF#4) 0#4 0#32).toWord = 0x3000000000#40)

theorem comp (t : Word) (f : Bool) : Statement (.comp t f) := by
  have hw : ∀ f : Bool, (!((BitVec.ofBool f).zeroExtend 4).getLsbD 3 && !((BitVec.ofBool f).zeroExtend 4).getLsbD 2 &&
      !((BitVec.ofBool f).zeroExtend 4).getLsbD 1) = true := by decide
  refine ⟨hw f, _, .tail _ (.tail _ (.tail _ (.tail _ (.head _)))), rfl, beq_iff_eq.2 ?_⟩
  refine (CmdFields.toWord_and _ { op := 0xF#4, idx := 0xE#4, data := 0#32 }).trans ?_
  rw [BitVec.and_zero]
  have hm : ∀ f : Bool, (BitVec.ofBool f).zeroExtend 4 &&& 0xE#4 = 0#4 := by decide
  rw [hm f]
  exact (by decide : (CmdFields.mk (4#4 &&& 0xF#4) 0#4 0#32).toWord = 0x4000000000#40)

theorem rdh (i : Fin 8) : Statement (.rdh i) := by
  have hw : ∀ i : Fin 8, (!(BitVec.ofNat 4 i.val).getLsbD 3 && (0#32 == 0#32)) = true := by decide
  have hm : ∀ i : Fin 8, BitVec.ofNat 4 i.val &&& 8#4 = 0#4 := by decide
  refine ⟨hw i, _, .tail _ (.tail _ (.tail _ (.tail _ (.tail _ (.head _))))), rfl, beq_iff_eq.2 ?_⟩
  refine (CmdFields.toWord_and _ { op := 0xF#4, idx := 8#4, data := 0xFFFFFFFF#32 }).trans ?_
  rw [hm i]
  exact (by decide : (CmdFields.mk (5#4 &&& 0xF#4) 0#4 (0#32 &&& 0xFFFFFFFF#32)).toWord = 0x5000000000#40)

theorem g (r : Fin 10) (s : Fin 8) : Statement (.g r s) := by
  have hw : ∀ (r : Fin 10) (s : Fin 8), (Instr.g r s).wellFormed = true := by decide
  have hm : ∀ (r : Fin 10) (s : Fin 8),
      (1#2 ++ BitVec.ofNat 4 r.val ++ BitVec.ofNat 3 s.val : SeqWord) &&& 0x180#9 = 0x080#9 := by decide
  exact ⟨hw r s, .inl ⟨rfl, hm r s⟩⟩

theorem feed : Statement .feed :=
  ⟨by decide, .inr ⟨rfl, by decide⟩⟩

end Sys2Proof.Laws.Encoding
end

