-- ==== Sys2Proof/Laws/QuarterRound.lean ====
section
/-! SUPPORT. The index groups of the schedule are of four distinct indices (10_state.md R20), and what a scheduled
quarter-round leaves in each word of V (42_round_scheduler.md R68). -/

namespace Sys2Proof.Machine

/-- The four indices of a group are distinct: `a` in 0 to 3, `b` in 4 to 7, `c` in 8 to 11, `d` in 12 to 15 (R20). -/
theorem sched_ranges (r : Fin 10) (s : Fin 8) :
    (sched r s).a.val < 4 ∧ 4 ≤ (sched r s).b.val ∧ (sched r s).b.val < 8 ∧ 8 ≤ (sched r s).c.val ∧
      (sched r s).c.val < 12 ∧ 12 ≤ (sched r s).d.val := by
  have h : ∀ s : Fin 8, qr[s].a.val < 4 ∧ 4 ≤ qr[s].b.val ∧ qr[s].b.val < 8 ∧ 8 ≤ qr[s].c.val ∧
      qr[s].c.val < 12 ∧ 12 ≤ qr[s].d.val := by decide
  exact h s

@[simp] theorem rot_first : rot[0] = 16 := rfl
@[simp] theorem rot_second : rot[1] = 12 := rfl
@[simp] theorem rot_third : rot[2] = 8 := rfl
@[simp] theorem rot_fourth : rot[3] = 7 := rfl

theorem gstep_a (v m : Vector Word 16) (r : Fin 10) (s : Fin 8) :
    (gstep v m r s)[(sched r s).a] = (quarterAt v m r s).a := by
  have h := sched_ranges r s
  simp only [gstep, Fin.getElem_fin]
  rw [Vector.getElem_set_ne _ _ (by omega), Vector.getElem_set_ne _ _ (by omega),
    Vector.getElem_set_ne _ _ (by omega), Vector.getElem_set_self]

theorem gstep_b (v m : Vector Word 16) (r : Fin 10) (s : Fin 8) :
    (gstep v m r s)[(sched r s).b] = (quarterAt v m r s).b := by
  have h := sched_ranges r s
  simp only [gstep, Fin.getElem_fin]
  rw [Vector.getElem_set_ne _ _ (by omega), Vector.getElem_set_ne _ _ (by omega), Vector.getElem_set_self]

theorem gstep_c (v m : Vector Word 16) (r : Fin 10) (s : Fin 8) :
    (gstep v m r s)[(sched r s).c] = (quarterAt v m r s).c := by
  have h := sched_ranges r s
  simp only [gstep, Fin.getElem_fin]
  rw [Vector.getElem_set_ne _ _ (by omega), Vector.getElem_set_self]

theorem gstep_d (v m : Vector Word 16) (r : Fin 10) (s : Fin 8) :
    (gstep v m r s)[(sched r s).d] = (quarterAt v m r s).d := by
  simp only [gstep, Fin.getElem_fin]
  rw [Vector.getElem_set_self]

/-- A word of V outside the group is kept (R68). -/
theorem gstep_other (v m : Vector Word 16) (r : Fin 10) (s : Fin 8) (k : Fin 16)
    (ha : k ≠ (sched r s).a) (hb : k ≠ (sched r s).b) (hc : k ≠ (sched r s).c) (hd : k ≠ (sched r s).d) :
    (gstep v m r s)[k] = v[k] := by
  have hne : ∀ {x : Fin 16}, k ≠ x → x.val ≠ k.val := fun h e => h (Fin.ext e.symm)
  simp only [gstep, Fin.getElem_fin]
  rw [Vector.getElem_set_ne _ _ (hne hd), Vector.getElem_set_ne _ _ (hne hc), Vector.getElem_set_ne _ _ (hne hb),
    Vector.getElem_set_ne _ _ (hne ha)]

end Sys2Proof.Machine
end

