-- ==== Sys2Proof/Laws/Run.lean ====
section
/-! SUPPORT. Runs of the core: one step first, and one run after another. -/

namespace Sys2Proof.Machine

theorem coreRun_succ {M : Host.Core} {s t : M.State} (n : Nat) (h : M.step s = .next t) :
    M.run (n + 1) s = M.run n t := by
  simp [Host.Core.run, h]

theorem coreRun_add {M : Host.Core} {s t : M.State} (a b : Nat) (h : M.run a s = .next t) :
    M.run (a + b) s = M.run b t := by
  induction a generalizing s with
  | zero =>
    simp only [Host.Core.run, Host.Outcome.next.injEq] at h
    rw [h, Nat.zero_add]
  | succ n ih =>
    rw [show n + 1 + b = n + b + 1 by omega]
    cases hs : M.step s with
    | next u => rw [coreRun_succ _ hs] at h ⊢; exact ih h
    | fault r => simp [Host.Core.run, hs] at h
    | refused r => simp [Host.Core.run, hs] at h

/-- A run starts with a step. -/
theorem run_succ {s t : State} (n : Nat) (h : step s = .next t) : core.run (n + 1) s = core.run n t :=
  coreRun_succ (M := core) n h

/-- A run goes on with a run. -/
theorem run_add {s t : State} (a b : Nat) (h : core.run a s = .next t) : core.run (a + b) s = core.run b t :=
  coreRun_add (M := core) a b h

end Sys2Proof.Machine
end

