-- ==== Sys2Proof/Laws/Step.lean ====
section
/-! SUPPORT. What a step can do, said once: the five cases of `select`, and the step in each. -/

namespace Sys2Proof.Machine

/-- READY is the sequencer idle and no error (10_state.md R15). -/
theorem ready_iff (s : State) : ready s = true ↔ s.seq = .idle ∧ s.err = false := by
  unfold ready phaseOf
  cases s.seq <;> simp

theorem select_reset {s : State} (h : s.currentAct = .reset) : select s = .reset := by
  simp [select, h]

theorem select_micro {s : State} {i : Instr} (hr : s.currentAct ≠ .reset) (h : s.seq.micro = some i) :
    select s = .micro i := by
  simp [select, hr, h]

theorem select_idle {s : State} (hr : s.currentAct ≠ .reset) (h : s.seq = .idle) : select s = selectHost s := by
  simp [select, hr, h, Seq.micro]

theorem selectHost_ready {s : State} {w : CmdWord} (h : ready s = true) (hw : s.presented = some w) :
    selectHost s = selectWord w := by
  simp [selectHost, h, hw]

theorem selectHost_none {s : State} (hw : s.presented = none) : selectHost s = .nothing := by
  simp [selectHost, hw]

theorem selectHost_error {s : State} (h : s.err = true) : selectHost s = .nothing := by
  simp [selectHost, ready, h]

theorem step_of_reset {s : State} (h : select s = .reset) : step s = .next s.advanceHost.resetStep := by
  simp [step, h]

theorem step_of_micro {s : State} {i : Instr} (h : select s = .micro i) : step s = exec i s.advanceHost := by
  simp [step, h]

theorem step_of_accept {s : State} {i : Instr} (h : select s = .accept i) :
    step s = exec i s.advanceHost.takeCommand := by
  simp [step, h]

theorem step_of_illegal {s : State} {c : IllegalCause} (h : select s = .illegal c) :
    step s = .next (s.advanceHost.takeCommand.raiseIllegal c) := by
  simp [step, h]

theorem step_of_nothing {s : State} (h : select s = .nothing) : step s = .next s.advanceHost.noResponse := by
  simp [step, h]

/-- What a selection says of the state: the inversion of `select`. -/
theorem select_cases (s : State) :
    (s.currentAct = .reset ∧ select s = .reset) ∨
    (s.currentAct ≠ .reset ∧ ∃ i, s.seq.micro = some i ∧ select s = .micro i) ∨
    (s.currentAct ≠ .reset ∧ ready s = true ∧ ∃ w i, s.presented = some w ∧ decodeCommand w = .command i ∧
      select s = .accept i) ∨
    (s.currentAct ≠ .reset ∧ ready s = true ∧ ∃ w c, s.presented = some w ∧ decodeCommand w = .illegal c ∧
      select s = .illegal c) ∨
    (s.currentAct ≠ .reset ∧ s.seq = .idle ∧ (s.err = true ∨ s.presented = none) ∧ select s = .nothing) := by
  by_cases hr : s.currentAct = .reset
  · exact .inl ⟨hr, select_reset hr⟩
  · right
    cases hq : s.seq with
    | mix r k => exact .inl ⟨hr, .g r k, by simp [Seq.micro], select_micro hr (by simp [hq, Seq.micro])⟩
    | feed => exact .inl ⟨hr, .feed, by simp [Seq.micro], select_micro hr (by simp [hq, Seq.micro])⟩
    | idle =>
      right
      by_cases he : s.err = true
      · exact .inr (.inr ⟨hr, rfl, .inl he, by rw [select_idle hr hq, selectHost_error he]⟩)
      · have hready : ready s = true := (ready_iff s).2 ⟨hq, by simpa using he⟩
        cases hp : s.presented with
        | none => exact .inr (.inr ⟨hr, rfl, .inr rfl, by rw [select_idle hr hq, selectHost_none hp]⟩)
        | some w =>
          cases hd : decodeCommand w with
          | command i =>
            exact .inl ⟨hr, hready, w, i, rfl, hd,
              by rw [select_idle hr hq, selectHost_ready hready hp, selectWord, hd]⟩
          | illegal c =>
            exact .inr (.inl ⟨hr, hready, w, c, rfl, hd,
              by rw [select_idle hr hq, selectHost_ready hready hp, selectWord, hd]⟩)

/-- What a step can do, and the state it answers: the inversion of `step`. -/
theorem step_cases {s t : State} (h : step s = .next t) :
    (s.currentAct = .reset ∧ t = s.advanceHost.resetStep) ∨
    (s.currentAct ≠ .reset ∧ ∃ i, s.seq.micro = some i ∧ exec i s.advanceHost = .next t) ∨
    (s.currentAct ≠ .reset ∧ ready s = true ∧ ∃ w i, s.presented = some w ∧ decodeCommand w = .command i ∧
      exec i s.advanceHost.takeCommand = .next t) ∨
    (s.currentAct ≠ .reset ∧ ready s = true ∧ ∃ w c, s.presented = some w ∧ decodeCommand w = .illegal c ∧
      t = s.advanceHost.takeCommand.raiseIllegal c) ∨
    (s.currentAct ≠ .reset ∧ s.seq = .idle ∧ (s.err = true ∨ s.presented = none) ∧ t = s.advanceHost.noResponse) := by
  rcases select_cases s with ⟨hr, hs⟩ | ⟨hr, i, hi, hs⟩ | ⟨hr, hy, w, i, hw, hd, hs⟩ | ⟨hr, hy, w, c, hw, hd, hs⟩ |
    ⟨hr, hq, he, hs⟩
  · rw [step_of_reset hs, Host.Outcome.next.injEq] at h
    exact .inl ⟨hr, h.symm⟩
  · rw [step_of_micro hs] at h
    exact .inr (.inl ⟨hr, i, hi, h⟩)
  · rw [step_of_accept hs] at h
    exact .inr (.inr (.inl ⟨hr, hy, w, i, hw, hd, h⟩))
  · rw [step_of_illegal hs, Host.Outcome.next.injEq] at h
    exact .inr (.inr (.inr (.inl ⟨hr, hy, w, c, hw, hd, h.symm⟩)))
  · rw [step_of_nothing hs, Host.Outcome.next.injEq] at h
    exact .inr (.inr (.inr (.inr ⟨hr, hq, he, h.symm⟩)))

end Sys2Proof.Machine
end

