-- ==== Sys2Proof/Laws/Safety.lean ====
section
/-! SUPPORT. The five cases of a checked step, and runs of checked steps. -/

namespace Sys2Proof.Safety

open Sys2Proof.Machine

/-- What a checked step does, by what is selected. -/
theorem checkedStep_cases (s : State) :
    (select s = .reset ∧ checkedStep s = step s) ∨
    (∃ i, (select s = .micro i ∨ select s = .accept i) ∧
      checkedStep s = if readsUnwritten i s = true then .refused .unwrittenRead else step s) ∨
    (∃ c, select s = .illegal c ∧ checkedStep s = .fault (.illegalCommand c)) ∨
    (select s = .nothing ∧ checkedStep s = step s) := by
  cases h : select s with
  | reset => exact .inl ⟨rfl, by simp only [checkedStep, h]⟩
  | micro i => exact .inr (.inl ⟨i, .inl rfl, by simp only [checkedStep, h]⟩)
  | accept i => exact .inr (.inl ⟨i, .inr rfl, by simp only [checkedStep, h]⟩)
  | illegal c => exact .inr (.inr (.inl ⟨c, rfl, by simp only [checkedStep, h]⟩))
  | nothing => exact .inr (.inr (.inr ⟨rfl, by simp only [checkedStep, h]⟩))

/-- A checked run starts with a checked step. -/
theorem checkedRun_succ {s t : State} (n : Nat) (h : checkedStep s = .next t) :
    checkedRun (n + 1) s = checkedRun n t :=
  coreRun_succ (M := checkedCore) n h

/-- A checked run goes on with a checked run. -/
theorem checkedRun_add {s t : State} (a b : Nat) (h : checkedRun a s = .next t) :
    checkedRun (a + b) s = checkedRun b t :=
  coreRun_add (M := checkedCore) a b h

/-- A refused step refuses the whole run, however long it is (10_state.md R27). -/
theorem checkedRun_of_refused {s : State} {r : Refusal} (n : Nat) (h : checkedStep s = .refused r) :
    checkedRun (n + 1) s = .refused r := by
  have hs : checkedCore.step s = .refused r := h
  simp only [checkedRun, Host.Core.run, hs]
  rfl

/-- An illegal word ends the whole run with its fault (60_exceptions.md R93). -/
theorem checkedRun_of_fault {s : State} {c : Fault} (n : Nat) (h : checkedStep s = .fault c) :
    checkedRun (n + 1) s = .fault c := by
  have hs : checkedCore.step s = .fault c := h
  simp only [checkedRun, Host.Core.run, hs]
  rfl

end Sys2Proof.Safety
end

