-- ==== Sys2Proof/Tests/Slice0.lean ====
section
/-! SUPPORT. Tests. Expected results are the spec's: 30_encoding.md sections 2, 4 and 5, 95_test_vectors.md section 1 and
96_test_vectors_derived.md section 3. First the well-formedness checks, then decoding, then one step of each instruction,
then a witness for the hypotheses of every statement of Certificates/Slice0/Obligations.lean. -/

namespace Sys2Proof.Tests

open Sys2Proof.Machine Sys2Proof.Safety Sys2Proof.Claims

/-! ### Well-formedness: one ill-formed term for each check -/

theorem test_wf_reserved_opcode : (Written.command { op := 6#4, idx := 0#4, data := 0#32 }).wellFormed = false := by decide
theorem test_wf_last_reserved_opcode :
    (Written.command { op := 15#4, idx := 0#4, data := 0#32 }).wellFormed = false := by decide
theorem test_wf_format_z_idx : (Written.command { op := 0#4, idx := 8#4, data := 0#32 }).wellFormed = false := by decide
theorem test_wf_format_z_data : (Written.command { op := 1#4, idx := 0#4, data := 1#32 }).wellFormed = false := by decide
theorem test_wf_format_h_idx3 : (Written.command { op := 2#4, idx := 8#4, data := 0#32 }).wellFormed = false := by decide
theorem test_wf_format_c_idx3 : (Written.command { op := 4#4, idx := 8#4, data := 0#32 }).wellFormed = false := by decide
theorem test_wf_format_c_idx2 : (Written.command { op := 4#4, idx := 4#4, data := 0#32 }).wellFormed = false := by decide
theorem test_wf_format_c_idx1 : (Written.command { op := 4#4, idx := 3#4, data := 64#32 }).wellFormed = false := by decide
theorem test_wf_format_q_idx3 : (Written.command { op := 5#4, idx := 8#4, data := 0#32 }).wellFormed = false := by decide
theorem test_wf_format_q_data : (Written.command { op := 5#4, idx := 0#4, data := 1#32 }).wellFormed = false := by decide
theorem test_wf_round_ten : (Written.sequencer { phase := 1#2, rnd := 10#4, step := 0#3 }).wellFormed = false := by decide
theorem test_wf_phase_three : (Written.sequencer { phase := 3#2, rnd := 0#4, step := 0#3 }).wellFormed = false := by decide
theorem test_wf_idle_step : (Written.sequencer { phase := 0#2, rnd := 0#4, step := 1#3 }).wellFormed = false := by decide
theorem test_wf_idle_round : (Written.sequencer { phase := 0#2, rnd := 1#4, step := 0#3 }).wellFormed = false := by decide
theorem test_wf_feed_step : (Written.sequencer { phase := 2#2, rnd := 0#4, step := 7#3 }).wellFormed = false := by decide
theorem test_wf_feed_round : (Written.sequencer { phase := 2#2, rnd := 15#4, step := 0#3 }).wellFormed = false := by decide
theorem test_wf_accepts : (Written.command { op := 3#4, idx := 15#4, data := 0xFFFFFFFF#32 }).wellFormed = true ∧
    (Written.command { op := 4#4, idx := 1#4, data := 0xFFFFFFFF#32 }).wellFormed = true ∧
    (Written.sequencer { phase := 1#2, rnd := 9#4, step := 7#3 }).wellFormed = true := by decide

/-! ### Decoding: words written out bit by bit, `op` then `idx` then `data` (R41, R42) -/

theorem test_decode_nop : decodeCommand 0b0000_0000_00000000000000000000000000000000#40 = .command .nop := by decide
theorem test_decode_init : decodeCommand 0b0001_0000_00000000000000000000000000000000#40 = .command .init := by decide
theorem test_decode_ldh : decodeCommand 0b0010_0111_01011011111000001100110100011001#40 =
    .command (.ldh 7 0x5BE0CD19#32) := by decide
theorem test_decode_ldm : decodeCommand 0b0011_1111_00111111001111100011110100111100#40 =
    .command (.ldm 15 0x3F3E3D3C#32) := by decide
theorem test_decode_comp : decodeCommand 0b0100_0001_00000000000000000000000001000000#40 =
    .command (.comp 64#32 true) := by decide
theorem test_decode_comp_not_final : decodeCommand 0b0100_0000_11111111111111111111111111111111#40 =
    .command (.comp 0xFFFFFFFF#32 false) := by decide
theorem test_decode_rdh : decodeCommand 0b0101_0111_00000000000000000000000000000000#40 = .command (.rdh 7) := by decide
/-- A sequencer word: PHASE 01, RND 1001, STEP 111 (R49). -/
theorem test_decode_g : decodeSequencer 0b01_1001_111#9 = some (.g 9 7) := by decide
theorem test_decode_g_middle : decodeSequencer 0b01_0100_111#9 = some (.g 4 7) := by decide
theorem test_decode_feed : decodeSequencer 0b10_0000_000#9 = some .feed := by decide
theorem test_decode_idle : decodeSequencer 0b00_0000_000#9 = none := by decide
theorem test_decode_no_sequencer_value : Seq.ofWord 0x0D0#9 = none ∧ Seq.ofWord 0x001#9 = none ∧ Seq.ofWord 0x101#9 = none ∧
    Seq.ofWord 0x180#9 = none := by decide
/-- Illegal words of 96_test_vectors_derived.md section 3.1. -/
theorem test_decode_bad_field : decodeCommand 0x0000000001#40 = .illegal .badField ∧
    decodeCommand 0x0800000000#40 = .illegal .badField ∧ decodeCommand 0x1F00000000#40 = .illegal .badField ∧
    decodeCommand 0x2800000000#40 = .illegal .badField ∧ decodeCommand 0x2F12345678#40 = .illegal .badField ∧
    decodeCommand 0x4200000040#40 = .illegal .badField ∧ decodeCommand 0x4E00000000#40 = .illegal .badField ∧
    decodeCommand 0x5000000001#40 = .illegal .badField ∧ decodeCommand 0x5800000000#40 = .illegal .badField ∧
    decodeCommand 0x5FFFFFFFFF#40 = .illegal .badField := by decide
theorem test_decode_reserved : decodeCommand 0x6000000000#40 = .illegal .reservedOp ∧
    decodeCommand 0x8123456789#40 = .illegal .reservedOp ∧ decodeCommand 0xFFFFFFFFFF#40 = .illegal .reservedOp ∧
    decodeCommand 0x6800000001#40 = .illegal .reservedOp := by decide
theorem test_encode : encode (.ldm 3 0x0F0E0D0C#32) = .command 0x330F0E0D0C#40 ∧
    encode (.comp 3#32 true) = .command 0x4100000003#40 ∧ encode (.rdh 1) = .command 0x5100000000#40 ∧
    encode (.g 5 0) = .sequencer 0x0A8#9 ∧ encode .feed = .sequencer 0x100#9 := by decide
theorem test_table_word : decodeTableWord 40 0x3300000000 = some (.ldm 3 0#32) ∧ decodeTableWord 16 0x080 = some (.g 0 0) ∧
    decodeTableWord 16 0x100 = some .feed ∧ decodeTableWord 40 0x6000000000 = none := by decide

/-! ### Tables: rows of SIGMA are permutations, groups of QR cover V twice (R19, R20) -/

theorem test_sigma_permutations : ∀ r : Fin 10, ∀ j : Fin 16, j ∈ (sigma[r]).toList := by decide
theorem test_groups_cover : ∀ k : Fin 16,
    (∃ s : Fin 8, s.val < 4 ∧ (k = qr[s].a ∨ k = qr[s].b ∨ k = qr[s].c ∨ k = qr[s].d)) ∧
    (∃ s : Fin 8, 4 ≤ s.val ∧ (k = qr[s].a ∨ k = qr[s].b ∨ k = qr[s].c ∨ k = qr[s].d)) := by decide
/-- 96_test_vectors_derived.md section 3.7. -/
theorem test_sched : sched 0 0 = { a := 0, b := 4, c := 8, d := 12, x := 0, y := 1 } ∧
    sched 5 2 = { a := 2, b := 6, c := 10, d := 14, x := 0, y := 11 } ∧
    sched 9 7 = { a := 3, b := 4, c := 9, d := 14, x := 13, y := 0 } := by decide

/-! ### Arithmetic: 96_test_vectors_derived.md section 3.2 -/

theorem test_add_wraps : add32 0xFFFFFFFF#32 1#32 = 0#32 ∧ add32 0x6A09E667#32 0x6BF9EE17#32 = 0xD603D47E#32 := by decide
theorem test_ror : ror32 0x12345678#32 16 = 0x56781234#32 ∧ ror32 0x12345678#32 12 = 0x67812345#32 ∧
    ror32 0x12345678#32 8 = 0x78123456#32 ∧ ror32 0x12345678#32 7 = 0xF02468AC#32 ∧
    ror32 0x80000001#32 7 = 0x03000000#32 := by decide
theorem test_not : not32 0x1F83D9AB#32 = 0xE07C2654#32 := by decide
theorem test_quarter : quarter 0xDEADBEEF#32 0xCAFEBABE#32 0x0BADF00D#32 0x8BADF00D#32 0x01234567#32 0x89ABCDEF#32 =
    { a := 0xF194909D#32, b := 0x75CF3939#32, c := 0x5A859F20#32, d := 0xFFBE8DB1#32 } := by decide
theorem test_quarter_ones : quarter 0xFFFFFFFF#32 0xFFFFFFFF#32 0xFFFFFFFF#32 0xFFFFFFFF#32 0xFFFFFFFF#32 0xFFFFFFFF#32 =
    { a := 0x000FFFDC#32, b := 0x3DB81BE4#32, c := 0xDC020DFE#32, d := 0xDC000DFF#32 } := by decide

/-! ### One step -/

/-- A state with all words zero, idle and without an error, every word marked as `mark` says. -/
def blank (mark : Bool) : State :=
  { h := Vector.replicate 8 0#32, m := Vector.replicate 16 0#32, v := Vector.replicate 16 0#32,
    hMark := Vector.replicate 8 mark, mMark := Vector.replicate 16 mark, vMark := Vector.replicate 16 mark,
    seq := .idle, err := false, cause := none, rsp := none, cmds := [], acts := [], resets := 0, refused := false }

/-- `blank` with a word on the command port. -/
def onPort (w : CmdWord) : State := { blank true with cmds := [w] }

/-- `blank` in the middle of a compression, with a word on the command port. -/
def busy (q : Seq) (w : CmdWord) : State := { onPort w with seq := q }

/-- `blank` with the error latch set, and a word on the command port. -/
def latched (c : IllegalCause) (w : CmdWord) : State := { onPort w with err := true, cause := some c }

/-- `blank`, unwritten, with a word on the command port. -/
def unwritten (w : CmdWord) : State := { blank false with cmds := [w] }

/-- `blank` with the host asserting reset while a word is on the command port. -/
def inReset (w : CmdWord) : State := { onPort w with acts := [.reset] }

/-- What a step answers, as data that can be compared. -/
def answer (o : Host.Outcome State Fault Refusal) : Option State :=
  match o with
  | .next s => some s
  | .fault _ => none
  | .refused _ => none

/-- The chaining value after `INIT` (95_test_vectors.md section 1.3). -/
def hi : Vector Word 8 :=
  #v[0x6B08E647#32, 0xBB67AE85#32, 0x3C6EF372#32, 0xA54FF53A#32, 0x510E527F#32, 0x9B05688C#32, 0x1F83D9AB#32, 0x5BE0CD19#32]

/-- The block of the known-answer vector (95_test_vectors.md section 1.2). -/
def km : Vector Word 16 :=
  #v[0x03020100#32, 0x07060504#32, 0x0B0A0908#32, 0x0F0E0D0C#32, 0x13121110#32, 0x17161514#32, 0x1B1A1918#32, 0x1F1E1D1C#32,
     0x23222120#32, 0x27262524#32, 0x2B2A2928#32, 0x2F2E2D2C#32, 0x33323130#32, 0x37363534#32, 0x3B3A3938#32, 0x3F3E3D3C#32]

theorem test_step_nop : (answer (step (onPort 0x0000000000#40))).map (fun t => (t.h, t.cmds, t.rsp, ready t)) =
    some (Vector.replicate 8 0#32, [], none, true) := by decide
theorem test_step_init : (answer (step (unwritten 0x1000000000#40))).map (fun t => (t.h, t.hMark, t.mMark)) =
    some (hi, Vector.replicate 8 true, Vector.replicate 16 false) := by decide
theorem test_step_ldh : (answer (step (unwritten 0x275BE0CD19#40))).map (fun t => (t.h[7], t.h[6], t.hMark[7], t.hMark[6])) =
    some (0x5BE0CD19#32, 0#32, true, false) := by decide
theorem test_step_ldm : (answer (step (unwritten 0x330F0E0D0C#40))).map (fun t => (t.m[3], t.m[2], t.mMark[3], t.mMark[2])) =
    some (0x0F0E0D0C#32, 0#32, true, false) := by decide
/-- The set-up step of 95_test_vectors.md section 1.3. -/
theorem test_step_comp : (answer (step { onPort 0x4100000040#40 with h := hi })).map (fun t => (t.v, t.seq, t.h, ready t)) =
    some (#v[0x6B08E647#32, 0xBB67AE85#32, 0x3C6EF372#32, 0xA54FF53A#32, 0x510E527F#32, 0x9B05688C#32, 0x1F83D9AB#32,
      0x5BE0CD19#32, 0x6A09E667#32, 0xBB67AE85#32, 0x3C6EF372#32, 0xA54FF53A#32, 0x510E523F#32, 0x9B05688C#32, 0xE07C2654#32,
      0x5BE0CD19#32], .mix 0 0, hi, false) := by decide
/-- 96_test_vectors_derived.md section 3.3, `t` = FFFFFFFF and `f` = 0. -/
theorem test_step_comp_not_final : (answer (step (onPort 0x40FFFFFFFF#40))).map (fun t => (t.v[12], t.v[13], t.v[14])) =
    some (0xAEF1AD80#32, 0x9B05688C#32, 0x1F83D9AB#32) := by decide
theorem test_step_rdh : (answer (step { onPort 0x5100000000#40 with h := hi })).map (fun t => (t.rsp, t.h)) =
    some (some 0xBB67AE85#32, hi) := by decide
/-- 96_test_vectors_derived.md section 3.8: just after reset `RDH 0` and `COMP 0, 1` are refused and ERR stays 0; after `INIT`
`RDH 0` is not. -/
theorem test_step_refused :
    (answer (step (unwritten 0x5000000000#40))).map (fun t => (t.refused, t.err)) = some (true, false) ∧
    (answer (step (unwritten 0x4100000000#40))).map (fun t => (t.refused, t.err)) = some (true, false) ∧
    (answer (step { unwritten 0x5000000000#40 with hMark := Vector.replicate 8 true })).map (fun t => (t.refused, t.err)) =
      some (false, false) := by decide
/-- 96_test_vectors_derived.md section 3.8: after `INIT` and `LDM 0..14`, `COMP 0, 1` is refused, and the whole run with it. -/
theorem test_run_refused : checkedRun 5 { onPort 0x4100000000#40 with mMark := (Vector.replicate 16 true).set 15 false } =
    .refused .unwrittenRead := rfl
/-- The first micro-step of 95_test_vectors.md section 1.3. -/
theorem test_step_g : (answer (step { busy (.mix 0 0) 0#40 with v := setup hi 64#32 true, m := km })).map
    (fun t => (t.v[0], t.v[4], t.v[8], t.v[12], t.seq)) =
    some (0x2637AFA2#32, 0xCFD693A4#32, 0x8B51A2BF#32, 0xB54DCE41#32, .mix 0 1) := by decide
theorem test_step_g_last : (answer (step (busy (.mix 9 7) 0#40))).map (fun t => t.seq) = some .feed := by decide
/-- 96_test_vectors_derived.md section 3.6, the first row. -/
theorem test_step_feed : (answer (step { busy .feed 0#40 with
      h := #v[0x01234567#32, 0x89ABCDEF#32, 0xFEDCBA98#32, 0x76543210#32, 0xDEADBEEF#32, 0xCAFEBABE#32, 0x0BADF00D#32,
        0x8BADF00D#32],
      v := #v[0x10101010#32, 0x11111111#32, 0x12121212#32, 0x13131313#32, 0x14141414#32, 0x15151515#32, 0x16161616#32,
        0x17171717#32, 0x18181818#32, 0x19191919#32, 0x1A1A1A1A#32, 0x1B1B1B1B#32, 0x1C1C1C1C#32, 0x1D1D1D1D#32,
        0x1E1E1E1E#32, 0x1F1F1F1F#32] })).map (fun t => (t.h, t.seq, ready t)) =
    some (#v[0x092B4D6F#32, 0x81A3C5E7#32, 0xF6D4B290#32, 0x7E5C3A18#32, 0xD6A5B6E7#32, 0xC2F6B2B6#32, 0x03A5F805#32,
      0x83A5F805#32], .idle, true) := by decide
/-- 96_test_vectors_derived.md section 3.8: `.word 0x2800000000` faults and does not write H[0]. -/
theorem test_step_illegal : (answer (step (unwritten 0x2800000000#40))).map (fun t => (statusWord t, t.hMark[0], t.cmds)) =
    some (0b1010#4, false, []) := by decide
theorem test_step_reserved : (answer (step (onPort 0x6000000000#40))).map (fun t => (statusWord t, t.rsp)) =
    some (0b0110#4, none) := by decide
theorem test_step_held_while_busy :
    (answer (step (busy (.mix 3 5) 0xF000000000#40))).map (fun t => (t.seq, t.cmds, t.err)) =
    some (.mix 3 6, [0xF000000000#40], false) := by decide
theorem test_step_held_in_error :
    (answer (step (latched .reservedOp 0x2800000000#40))).map (fun t => (statusWord t, t.cmds)) =
    some (0b0110#4, [0x2800000000#40]) := by decide
theorem test_step_reset : (answer (step { inReset 0x1000000000#40 with seq := .mix 3 5, err := true })).map
    (fun t => (statusWord t, t.seq, t.hMark, t.cmds, t.resets)) =
    some (0b0001#4, .idle, Vector.replicate 8 false, [0x1000000000#40], 1) := by decide
theorem test_step_withdrawn : (answer (step { onPort 0x1000000000#40 with acts := [.withdraw] })).map
    (fun t => (t.h, t.cmds)) = some (Vector.replicate 8 0#32, []) := by decide
theorem test_step_paused : (answer (step { onPort 0x1000000000#40 with acts := [.pause] })).map
    (fun t => (t.h, t.cmds, t.acts)) = some (Vector.replicate 8 0#32, [0x1000000000#40], []) := by decide
/-- The first step after reset performs the word that was placed. -/
theorem test_fetch : step (State.reset.withFetchWord 40 0x2000000005) =
    exec (.ldh 0 5#32) (State.reset.withFetchWord 40 0x2000000005).advanceHost.takeCommand := rfl

/-- The known-answer vector of the source (95_test_vectors.md section 1.1) through the function of a compression. -/
theorem test_known_answer : compress hi km 64#32 true =
    #v[0x8B4EF356#32, 0x907E5596#32, 0x524BF2C1#32, 0x519DC8D0#32, 0x1BCF6A08#32, 0xCF34F600#32, 0x3392DE1D#32,
      0x3EAAEAB8#32] := by decide +kernel

/-! ### The driver -/

/-- The unpacking of 95_test_vectors.md section 1.2. -/
theorem test_slot_words : slotWords [0x0706050403020100#64, 0x0F0E0D0C0B0A0908#64] =
    [0x03020100#32, 0x07060504#32, 0x0B0A0908#32, 0x0F0E0D0C#32] := by decide
theorem test_digest_slot : packSlot 0x8B4EF356#32 0x907E5596#32 = 10411853493597827926#64 := by decide
theorem test_word_bytes : wordBytes 0x8B4EF356#32 = [0x56#8, 0xF3#8, 0x4E#8, 0x8B#8] := by decide
/-- The counters and final flags of 96_test_vectors_derived.md section 3.5 for 0, 16 and 17 words. -/
theorem test_block_counters : (messageBlocks []).map (fun b => (b.t, b.final)) = [(0, true)] ∧
    (messageBlocks (List.replicate 16 0#32)).map (fun b => (b.t, b.final)) = [(64, true)] ∧
    (messageBlocks (List.replicate 17 0#32)).map (fun b => (b.t, b.final)) = [(64, false), (68, true)] := by decide
theorem test_assembler : assemble (.ldh 8 0) = none ∧ assemble (.word 0x6000000000) = some [0x6000000000#40] ∧
    assemble (.ldm64 7 0x3F3E3D3C3B3A3938) = some [0x3E3B3A3938#40, 0x3F3F3E3D3C#40] := by decide

/-! ### Witnesses: states and operands that meet the hypotheses of each statement, named after it -/

/-- The premise of every `AcceptedAs`: a word on the port of a ready core. -/
theorem witness_AcceptedAs (w : CmdWord) : ready (onPort w) = true ∧ (onPort w).presented = some w := ⟨rfl, rfl⟩

/-- The premise of every `SelectedAs`: a sequencer value without a reset, also while a word is presented. -/
theorem witness_SelectedAs (q : Seq) : (busy q 0#40).seq = q ∧ NoReset (busy q 0#40) :=
  ⟨rfl, fun h => HostAct.noConfusion h⟩

theorem witness_NopDoesNothing :
    ((0x0100000000#40).extractLsb' 36 4 = 0#4 ∧ (0x0100000000#40).extractLsb' 32 4 ≠ 0#4) ∧
    ((0x0000000001#40).extractLsb' 36 4 = 0#4 ∧ (0x0000000001#40).extractLsb' 0 32 ≠ 0#32) ∧
    ready (busy (.mix 9 7) 0#40) = false ∧ (busy (.mix 9 7) 0#40).presented = some 0#40 ∧
    ready (latched .badField 0#40) = false ∧ (latched .badField 0#40).presented = some 0#40 := by decide

theorem witness_InitLoadsTheInitialHashState :
    ((0x1F00000000#40).extractLsb' 36 4 = 1#4 ∧ (0x1F00000000#40).extractLsb' 32 4 ≠ 0#4) ∧
    ((0x1080000000#40).extractLsb' 36 4 = 1#4 ∧ (0x1080000000#40).extractLsb' 0 32 ≠ 0#32) := by decide

theorem witness_LdhWritesOneHashWord :
    (0x2800000000#40).extractLsb' 36 4 = 2#4 ∧ (0x2800000000#40).getLsbD 35 = true := by decide

theorem witness_LdmWritesOneMessageWord :
    (0x3FFFFFFFFF#40).extractLsb' 36 4 = 3#4 ∧ (0x3000000000#40).extractLsb' 36 4 = 3#4 := by decide

theorem witness_CompSetsUpTheWorkingVector :
    ((0x4200000000#40).extractLsb' 36 4 = 4#4 ∧ (0x4200000000#40).extractLsb' 33 3 ≠ 0#3) ∧
    ((0x4800000000#40).extractLsb' 36 4 = 4#4 ∧ (0x4800000000#40).extractLsb' 33 3 ≠ 0#3) := by decide

theorem witness_RdhReadsOneHashWord :
    ((0x5800000000#40).extractLsb' 36 4 = 5#4 ∧ (0x5800000000#40).getLsbD 35 = true) ∧
    ((0x5000000001#40).extractLsb' 36 4 = 5#4 ∧ (0x5000000001#40).extractLsb' 0 32 ≠ 0#32) := by decide

theorem witness_GMixesTheScheduledWords :
    (busy (.mix 9 7) 0#40).seq = .mix 9 7 ∧ NoReset (busy (.mix 9 7) 0#40) ∧
    (1 : Fin 16) ≠ (sched 0 0).a ∧ (1 : Fin 16) ≠ (sched 0 0).b ∧ (1 : Fin 16) ≠ (sched 0 0).c ∧
    (1 : Fin 16) ≠ (sched 0 0).d := by decide

theorem witness_FeedFoldsVIntoH : (busy .feed 0#40).seq = .feed ∧ NoReset (busy .feed 0#40) ∧
    (busy .feed 0#40).err = false := by decide

theorem witness_StepRunsTheDecodedInstruction :
    (ready (onPort 0x5700000000#40) = true ∧ (onPort 0x5700000000#40).presented = some 0x5700000000#40 ∧
      decodeCommand 0x5700000000#40 = .command (.rdh 7)) ∧
    (NoReset (busy (.mix 0 0) 0#40) ∧ (busy (.mix 0 0) 0#40).seq.micro = some (.g 0 0)) ∧
    (NoReset (busy .feed 0#40) ∧ (busy .feed 0#40).seq.micro = some .feed) ∧
    (ready (blank true) = true ∧ NoReset (blank true) ∧ (blank true).presented = none) := by decide

theorem witness_HeldCommandIsNotLookedAt :
    (ready (busy (.mix 3 5) 0xF000000000#40) = false ∧ NoReset (busy (.mix 3 5) 0xF000000000#40) ∧
      (busy (.mix 3 5) 0xF000000000#40).currentAct ≠ .withdraw) ∧
    (ready (latched .reservedOp 0#40) = false ∧ NoReset (latched .reservedOp 0#40) ∧
      (latched .reservedOp 0#40).currentAct ≠ .withdraw) := by decide

theorem witness_IllegalCommandEntry :
    (ready (onPort 0xF000000000#40) = true ∧ (onPort 0xF000000000#40).presented = some 0xF000000000#40 ∧
      decodeCommand 0xF000000000#40 = .illegal .reservedOp) ∧
    decodeCommand 0x2800000000#40 = .illegal .badField ∧
    ∃ t u, step (onPort 0xF000000000#40) = .next t ∧ NoReset t ∧ step t = .next u :=
  ⟨by decide, by decide, _, _, rfl, by decide, rfl⟩

theorem witness_ErrorLatchHoldsUntilReset :
    ControlInv (latched .badField 0x1000000000#40) ∧ (latched .badField 0x1000000000#40).err = true ∧
    NoReset (latched .badField 0x1000000000#40) ∧ (latched .badField 0x1000000000#40).currentAct ≠ .withdraw := by decide

theorem witness_ResetStepFromAnyState : (inReset 0xF000000000#40).currentAct = .reset ∧
    ∃ t, ({ inReset 0#40 with err := true, cause := some .badField } : State).err = true ∧
      step { inReset 0#40 with err := true, cause := some .badField } = .next t ∧ t.err = false :=
  ⟨rfl, _, rfl, rfl, rfl⟩

theorem witness_ReservedOpcodesFault :
    6 ≤ ((0x6000000000#40).extractLsb' 36 4).toNat ∧ 6 ≤ ((0xFFFFFFFFFF#40).extractLsb' 36 4).toNat ∧
    ready (onPort 0x6000000000#40) = true ∧ (onPort 0x6000000000#40).presented = some 0x6000000000#40 ∧
    ∃ t, step (onPort 0x6000000000#40) = .next t ∧ NoResetAhead t :=
  ⟨by decide, by decide, by decide, by decide, _, rfl, by decide⟩

theorem witness_StrayBitsFault :
    (Format.ofOp ((0x4300000040#40).extractLsb' 36 4) = some .C ∧
      Format.C.mbzHolds (CmdFields.ofWord 0x4300000040#40) = false) ∧
    (Format.ofOp ((0x0000000001#40).extractLsb' 36 4) = some .Z ∧
      Format.Z.mbzHolds (CmdFields.ofWord 0x0000000001#40) = false) ∧
    (ready (onPort 0x4300000040#40) = true ∧ (onPort 0x4300000040#40).presented = some 0x4300000040#40) ∧
    ((0x2800000000#40).extractLsb' 36 4 = 2#4 ∧ 8 ≤ ((0x2800000000#40).extractLsb' 32 4).toNat) ∧
    ((0x5F00000000#40).extractLsb' 36 4 = 5#4 ∧ 8 ≤ ((0x5F00000000#40).extractLsb' 32 4).toNat) := by decide

/-- `RDH` with data 1 on an unwritten H is a BAD_FIELD fault, not a refusal (96_test_vectors_derived.md section 3.8). -/
theorem witness_DecodingComesBeforeMarksAndResetBeforeAll :
    ready (unwritten 0x5000000001#40) = true ∧ (unwritten 0x5000000001#40).presented = some 0x5000000001#40 ∧
    decodeCommand 0x5000000001#40 = .illegal .badField ∧ (inReset 0x5000000001#40).currentAct = .reset ∧
    ∃ t, step (unwritten 0x5000000001#40) = .next t :=
  ⟨by decide, by decide, by decide, by decide, _, rfl⟩

theorem witness_DecoderAcceptsExactlyTheWellFormedWords :
    decodeCommand 0x27FFFFFFFF#40 = .command (.ldh 7 0xFFFFFFFF#32) ∧
    (CmdFields.ofWord 0x27FFFFFFFF#40).wellFormed = true := by decide

theorem witness_DecodeOfEncodeIsTheInstruction :
    (Instr.ldh 7 0xFFFFFFFF#32).wellFormed = true ∧ (Instr.ldm 15 0xFFFFFFFF#32).wellFormed = true ∧
    (Instr.comp 0xFFFFFFFF#32 true).wellFormed = true ∧ (Instr.rdh 7).wellFormed = true ∧ (Instr.g 9 7).wellFormed = true ∧
    Instr.nop.wellFormed = true ∧ Instr.init.wellFormed = true ∧ Instr.feed.wellFormed = true := by decide

theorem witness_OpcodeMapIsExact : ∃ row ∈ opcodeMap, row.mnemonic = .COMP ∧ row.admits 0x41FFFFFFFF#40 = true := by decide

theorem witness_WorkedEncodingsDecode : (0x4100000040#40, Instr.comp 64#32 true) ∈ workedEncodings := by decide

theorem witness_WordOperations : 16 ∈ [16, 12, 8, 7] ∧ 7 ∈ [16, 12, 8, 7] := by decide

theorem witness_QuarterRoundIsOneToOne : quarter 1#32 2#32 3#32 4#32 5#32 6#32 = quarter 1#32 2#32 3#32 4#32 5#32 6#32 := rfl

theorem witness_HalfRoundStepsCommute : ((0 : Fin 8).val < 4 ↔ (3 : Fin 8).val < 4) ∧
    ((4 : Fin 8).val < 4 ↔ (7 : Fin 8).val < 4) := by decide

theorem witness_SequencerFollowsThePath :
    (7 : Fin 8).val = (6 : Fin 8).val + 1 ∧ (9 : Fin 10).val = (8 : Fin 10).val + 1 ∧ NoReset (busy .feed 0#40) ∧
    (busy .feed 0#40).seq.micro = some .feed ∧
    ∃ t, step (onPort 0x4100000040#40) = .next t ∧ (onPort 0x4100000040#40).seq = .idle ∧ t.seq ≠ .idle :=
  ⟨rfl, rfl, by decide, rfl, _, rfl, rfl, by decide⟩

theorem witness_EveryMicroStepComesNearerTheEnd :
    (busy (.mix 9 7) 0#40).seq ≠ .idle ∧ NoReset (busy (.mix 9 7) 0#40) ∧ ∃ t, step (busy (.mix 9 7) 0#40) = .next t :=
  ⟨by decide, by decide, _, rfl⟩

theorem witness_CompressionTakes82Steps :
    (ready (onPort 0x4100000040#40) = true ∧ (onPort 0x4100000040#40).presented = some 0x4100000040#40 ∧
      decodeCommand 0x4100000040#40 = .command (.comp 64#32 true) ∧ NoResetAhead (onPort 0x4100000040#40) ∧
      AllWritten (onPort 0x4100000040#40) ∧ (1 ≤ 81 ∧ 81 ≤ 81)) ∧
    (ready (unwritten 0x4100000040#40) = true ∧ (unwritten 0x4100000040#40).presented = some 0x4100000040#40 ∧
      NoResetAhead (unwritten 0x4100000040#40) ∧ ¬ AllWritten (unwritten 0x4100000040#40)) := by decide

/-- One unwritten word, M[15] or H[7], is enough for the second clause. -/
theorem witness_CompressionRunEqualsTheFunction :
    (ready (onPort 0x4000000000#40) = true ∧ (onPort 0x4000000000#40).presented = some 0x4000000000#40 ∧
      decodeCommand 0x4000000000#40 = .command (.comp 0#32 false) ∧ NoResetAhead (onPort 0x4000000000#40) ∧
      AllWritten (onPort 0x4000000000#40)) ∧
    ¬ AllWritten { onPort 0x4000000000#40 with mMark := (Vector.replicate 16 true).set 15 false } ∧
    ¬ AllWritten { onPort 0x4000000000#40 with hMark := (Vector.replicate 8 true).set 7 false } := by decide

theorem witness_EveryStepKeepsTheControlInvariant : ControlInv (busy (.mix 0 0) 0#40) ∧
    ControlInv (latched .badField 0#40) ∧ (∃ t, step (busy (.mix 0 0) 0#40) = .next t) ∧
    ∃ t, step (latched .badField 0#40) = .next t :=
  ⟨by decide, by decide, ⟨_, rfl⟩, _, rfl⟩

theorem witness_EveryCheckedStepKeepsTheWrittenInvariant : WrittenInv (busy (.mix 0 0) 0#40) ∧
    WrittenInv (onPort 0x4100000040#40) ∧ (∃ t, checkedStep (busy (.mix 0 0) 0#40) = .next t) ∧
    ∃ t, checkedStep (onPort 0x4100000040#40) = .next t ∧ t.seq ≠ .idle :=
  ⟨by decide, by decide, ⟨_, rfl⟩, _, rfl, by decide⟩

/-- The rows of 96_test_vectors_derived.md section 3.8: after reset, `RDH 0` and `COMP 0, 1` are refused; with M[15] or H[7]
alone unwritten, `COMP` still is. -/
theorem witness_UnwrittenReadsAreRefused :
    (ready (unwritten 0x4100000000#40) = true ∧ (unwritten 0x4100000000#40).presented = some 0x4100000000#40 ∧
      decodeCommand 0x4100000000#40 = .command (.comp 0#32 true)) ∧
    (ready (unwritten 0x5000000000#40) = true ∧ (unwritten 0x5000000000#40).presented = some 0x5000000000#40 ∧
      decodeCommand 0x5000000000#40 = .command (.rdh 0)) ∧
    (WrittenInv (unwritten 0x5000000000#40) ∧ checkedStep (unwritten 0x5000000000#40) = .refused .unwrittenRead) ∧
    checkedStep { onPort 0x4100000000#40 with mMark := (Vector.replicate 16 true).set 15 false } = .refused .unwrittenRead ∧
    checkedStep { onPort 0x4100000000#40 with hMark := (Vector.replicate 8 true).set 7 false } = .refused .unwrittenRead ∧
    (∃ t, checkedStep (onPort 0x4100000000#40) = .next t) ∧
    ∃ t, step (unwritten 0x5000000000#40) = .next t ∧ (unwritten 0x5000000000#40).refused = false ∧ t.refused = true :=
  ⟨by decide, by decide, ⟨by decide, rfl⟩, rfl, rfl, ⟨_, rfl⟩, _, rfl, rfl, rfl⟩

theorem witness_RunIsMarkedExactlyByUnwrittenReads : (∃ t, exec .init (blank false) = .next t) ∧
    (∃ t, exec (.comp 0#32 true) (blank false) = .next t) ∧ (∃ t, exec (.rdh 7) (blank true) = .next t) ∧
    (∃ t, exec (.g 9 7) (blank false) = .next t) ∧ ∃ t, exec .feed (blank false) = .next t :=
  ⟨⟨_, rfl⟩, ⟨_, rfl⟩, ⟨_, rfl⟩, ⟨_, rfl⟩, _, rfl⟩

theorem witness_WholeRunIsRefused :
    checkedRun 1 (unwritten 0x5000000000#40) = .refused .unwrittenRead ∧ 1 ≤ 1 ∧
    (∃ t, checkedRun 1 (onPort 0x5000000000#40) = .next t) ∧
    (unwritten 0x5000000000#40).refused = false ∧
    (∃ t : State, core.run 1 (unwritten 0x5000000000#40) = .next t ∧ t.refused = true) ∧
    ∃ t, step { inReset 0#40 with refused := true } = .next t ∧ ({ inReset 0#40 with refused := true } : State).refused = true :=
  ⟨rfl, by decide, ⟨_, rfl⟩, rfl, ⟨_, rfl, rfl⟩, _, rfl, rfl⟩

theorem witness_RefusedMarkInfluencesNothing : ∃ t, step (unwritten 0x4100000000#40) = .next t := ⟨_, rfl⟩

theorem witness_HChangesOnlyByInitLdhFeedReset : ∃ t, step (onPort 0x2000000005#40) = .next t ∧
    t.h ≠ (onPort 0x2000000005#40).h :=
  ⟨_, rfl, by decide⟩

theorem witness_OnlyRdhResponds : ∃ t, step (onPort 0x5000000000#40) = .next t ∧ t.rsp = some 0#32 := ⟨_, rfl, rfl⟩

theorem witness_MChangesOnlyByLdmReset : ∃ t, step (onPort 0x3F00000005#40) = .next t ∧
    t.m ≠ (onPort 0x3F00000005#40).m :=
  ⟨_, rfl, by decide⟩

theorem witness_IdleWorkingVectorIsNotObservable : (onPort 0x4100000040#40).seq = .idle ∧
    ∃ t, step (onPort 0x4100000040#40) = .next t ∧ t.seq ≠ .idle :=
  ⟨rfl, _, rfl, by decide⟩

theorem witness_OnlyResetClearsTheError : (latched .badField 0#40).err = true ∧ NoReset (latched .badField 0#40) ∧
    ∃ t, step (latched .badField 0#40) = .next t :=
  ⟨rfl, by decide, _, rfl⟩

theorem witness_OnlyResetClearsAWrittenMark : NoReset (onPort 0x1000000000#40) ∧ (onPort 0x1000000000#40).hMark[7] = true ∧
    (onPort 0x1000000000#40).mMark[15] = true ∧ (onPort 0x1000000000#40).vMark[0] = true ∧
    ∃ t, step (onPort 0x1000000000#40) = .next t :=
  ⟨by decide, rfl, rfl, rfl, _, rfl⟩

theorem witness_SlotsPackLowWordFirst : 1 < [0x0706050403020100#64, 0x0F0E0D0C0B0A0908#64].length ∧
    (6 : Fin 8).val = 2 * (3 : Fin 4).val ∧ (7 : Fin 8).val = 2 * (3 : Fin 4).val + 1 := by decide

theorem witness_GeneralHasherBlocks : 0 < (messageBlocks []).length ∧
    1 < (messageBlocks (List.replicate 17 0#32)).length := by decide

theorem witness_TwoHashersAgreeOnOneBlock : (List.replicate 8 0x0706050403020100#64).length = 8 := by decide

theorem witness_PseudoInstructionsExpandLowWordFirst : (8 ≤ 8 ∨ 2 ^ 32 ≤ 0) ∧ (8 ≤ 7 ∨ 2 ^ 32 ≤ 2 ^ 32) ∧
    (16 ≤ 16 ∨ 2 ^ 32 ≤ 0) ∧ (2 ^ 32 ≤ 0 ∨ 2 ≤ 2) ∧ 8 ≤ 8 := by decide

theorem witness_HashJobDeliversTheDigest : ready ((unwritten 0#40).takeCommand.submit (hashCommands [])) = true ∧
    ((unwritten 0#40).takeCommand.submit (hashCommands [])).acts = [] ∧
    ((unwritten 0#40).takeCommand.submit (hashCommands [])).cmds = (hashCommands []).filterMap Instr.commandWord :=
  ⟨rfl, rfl, rfl⟩

end Sys2Proof.Tests
end

section
/-! PROOF. The four operations on words, by value and bit by bit (00_scope.md R8). -/

namespace Sys2Proof.Machine

theorem add32_toNat (a b : Word) : (add32 a b).toNat = (a.toNat + b.toNat) % 2 ^ 32 :=
  BitVec.toNat_add a b

theorem xor32_getLsbD (a b : Word) (i : Nat) :
    (xor32 a b).getLsbD i = (a.getLsbD i != b.getLsbD i) :=
  BitVec.getLsbD_xor

/-- The core's complement, an exclusive or with all ones, is the library's. -/
theorem not32_eq_not (a : Word) : not32 a = ~~~a :=
  BitVec.xor_allOnes

theorem not32_getLsbD (a : Word) (i : Fin 32) : (not32 a).getLsbD i.val = !a.getLsbD i.val := by
  simp [not32_eq_not]

/-- By less than a whole word, the core's rotation is the library's. -/
theorem ror32_eq_rotateRight (a : Word) {n : Nat} (hn : n < 32) : ror32 a n = a.rotateRight n := by
  rw [BitVec.rotateRight_def, Nat.mod_eq_of_lt hn, ror32]

/-- The bits `i < 32 - n` come from the right shift, the others have gone round. -/
theorem ror32_getLsbD (a : Word) {n : Nat} (hn : n < 32) (i : Fin 32) :
    (ror32 a n).getLsbD i.val = a.getLsbD ((i.val + n) % 32) := by
  rw [ror32_eq_rotateRight a hn, BitVec.getLsbD_rotateRight_of_lt hn]
  by_cases hi : i.val < 32 - n
  · have hsrc : (i.val + n) % 32 = n + i.val := by omega
    simp [hi, hsrc]
  · have hsrc : (i.val + n) % 32 = i.val - (32 - n) := by omega
    simp [hi, hsrc]

/-- The distances the core rotates by (R8) are less than a whole word. -/
theorem rotation_lt_32 {n : Nat} (hn : n ∈ [16, 12, 8, 7]) : n < 32 := by
  have hall : ∀ k ∈ [16, 12, 8, 7], k < 32 := by decide
  exact hall n hn

/-- Settles O25, one operation after the other; rotation by any distance under 32 moves the bits so. -/
theorem wordOperations : Obligations.WordOperations :=
  ⟨add32_toNat, fun a b i => xor32_getLsbD a b i.val, not32_getLsbD,
    fun a _ i hn => ror32_getLsbD a (rotation_lt_32 hn) i⟩

end Sys2Proof.Machine
end

section
/-! PROOF. The state after reset (10_state.md R26): control defined, and no word of H, M and V written. -/

namespace Sys2Proof.Machine

@[simp] theorem State.reset_seq : State.reset.seq = .idle := rfl
@[simp] theorem State.reset_err : State.reset.err = false := rfl
@[simp] theorem State.reset_cause : State.reset.cause = none := rfl
@[simp] theorem State.reset_hMark : State.reset.hMark = Vector.replicate 8 false := rfl
@[simp] theorem State.reset_mMark : State.reset.mMark = Vector.replicate 16 false := rfl
@[simp] theorem State.reset_vMark : State.reset.vMark = Vector.replicate 16 false := rfl

theorem ready_reset : ready State.reset = true :=
  (ready_iff State.reset).mpr ⟨State.reset_seq, State.reset_err⟩

theorem hMark_reset (i : Fin 8) : State.reset.hMark[i] = false := by simp

theorem mMark_reset (j : Fin 16) : State.reset.mMark[j] = false := by simp

theorem vMark_reset (k : Fin 16) : State.reset.vMark[k] = false := by simp

/-- Settles O15. The sequencer is IDLE and there is no cause, so PHASE, RND, STEP and CAUSE have the values of that case. -/
theorem resetStateIsAsSpecified : Obligations.ResetStateIsAsSpecified := by
  have hphase : phaseOf State.reset.seq = .idle := by simp [phaseOf]
  have hrnd : rndOf State.reset.seq = 0 := by simp [rndOf]
  have hstep : stepOf State.reset.seq = 0 := by simp [stepOf]
  have hcause : causeCode State.reset.cause = 0#2 := by simp [causeCode]
  exact ⟨hphase, hrnd, hstep, State.reset_err, hcause, ready_reset, hMark_reset, mMark_reset, vMark_reset⟩

end Sys2Proof.Machine
end

section
/-! PROOF. Two words in a slot, the lower index in the low half (20_memory.md R30): one word pair, an input, a digest. -/

namespace Sys2Proof.Machine

@[simp] theorem slotLow_packSlot (low high : Word) : slotLow (packSlot low high) = low :=
  BitVec.extractLsb'_append_eq_right

@[simp] theorem slotHigh_packSlot (low high : Word) : slotHigh (packSlot low high) = high :=
  BitVec.extractLsb'_append_eq_left

@[simp] theorem packSlot_slotLow_slotHigh (q : Slot) : packSlot (slotLow q) (slotHigh q) = q := by
  have hjoin := BitVec.extractLsb'_append_extractLsb'_eq_extractLsb' (x := q) (start₁ := 0) (start₂ := 32)
    (len₁ := 32) (len₂ := 32) rfl
  exact hjoin.trans BitVec.extractLsb'_eq_self

@[simp] theorem slotWords_nil : slotWords [] = [] := rfl

@[simp] theorem slotWords_cons (q : Slot) (qs : List Slot) :
    slotWords (q :: qs) = slotLow q :: slotHigh q :: slotWords qs := rfl

/-- Each slot gives two words, so dropping a slot moves the index on by two. -/
theorem slotWords_getElem? (qs : List Slot) (k : Nat) :
    (slotWords qs)[2 * k]? = qs[k]?.map slotLow ∧ (slotWords qs)[2 * k + 1]? = qs[k]?.map slotHigh := by
  induction qs generalizing k with
  | nil => exact ⟨rfl, rfl⟩
  | cons q qs ih =>
    cases k with
    | zero => exact ⟨rfl, rfl⟩
    | succ k => exact ih k

theorem digestSlots_getElem (h : Vector Word 8) (k : Fin 4) :
    (digestSlots h)[k] = packSlot h[2 * k.val] h[2 * k.val + 1] := by
  simp [digestSlots]

theorem digestSlots_getElem_of_val_eq (h : Vector Word 8) (k : Fin 4) {lo hi : Fin 8}
    (hlo : lo.val = 2 * k.val) (hhi : hi.val = 2 * k.val + 1) : (digestSlots h)[k] = packSlot h[lo] h[hi] := by
  rw [digestSlots_getElem]
  simp only [Fin.getElem_fin, hlo, hhi]

/-- Settles O44. The halves and the packing are inverse; an input is its slots' halves in order, by induction on the slots; a
digest's slots are packed so. -/
theorem slotsPackLowWordFirst : Obligations.SlotsPackLowWordFirst := by
  refine ⟨fun q => ⟨rfl, rfl, packSlot_slotLow_slotHigh q⟩,
    fun a b => ⟨slotLow_packSlot a b, slotHigh_packSlot a b⟩, fun qs k hk => ?input, fun h k lo hi hlo hhi => ?digest⟩
  case input =>
    have hslot : qs[k]? = some qs[k] := List.getElem?_eq_getElem hk
    simpa [hslot] using slotWords_getElem? qs k
  case digest =>
    rw [digestSlots_getElem_of_val_eq h k hlo hhi]
    exact ⟨slotLow_packSlot _ _, slotHigh_packSlot _ _⟩

end Sys2Proof.Machine
end

section
/-! PROOF. The accepted illegal word: which words are illegal and with what cause (30_encoding.md R46, R47), the step that
accepts one (60_exceptions.md R93), and the lock-out after it (R97). -/

namespace Sys2Proof

/-- The reserved-opcode test needs the opcode alone (R46). -/
theorem decodeFields_reserved {f : CmdFields} (h : 6 ≤ f.op.toNat) : decodeFields f = .illegal .reservedOp := by
  unfold decodeFields
  split
  case h_7 => rfl
  all_goals omega

theorem decodeCommand_reserved {w : CmdWord} (h : 6 ≤ (w.extractLsb' 36 4).toNat) :
    decodeCommand w = .illegal .reservedOp :=
  decodeFields_reserved (f := CmdFields.ofWord w) h

/-- Format C's three must-be-zero bits, one by one, are the decoder's slice `CMD[35:33]` (R42). -/
theorem mbzHolds_formatC_iff (f : CmdFields) : Format.C.mbzHolds f = true ↔ f.idx.extractLsb' 1 3 = 0#3 := by
  have hbits : ∀ idx : BitVec 4,
      (!idx.getLsbD 3 && !idx.getLsbD 2 && !idx.getLsbD 1) = true ↔ idx.extractLsb' 1 3 = 0#3 := by decide
  exact hbits f.idx

/-- An index field of 8 or more has its top bit set. -/
theorem getLsbD_three_of_eight_le {idx : BitVec 4} (h : 8 ≤ idx.toNat) : idx.getLsbD 3 = true := by
  have hmsb : idx.msb = true := BitVec.msb_eq_true_iff_two_mul_ge.2 (by omega)
  rwa [BitVec.msb_eq_getLsbD_last] at hmsb

/-- A word of a defined opcode that fails its format's must-be-zero test is a bad field, opcode by opcode (R47). -/
theorem decodeFields_badField {f : CmdFields} {k : Format} (hk : Format.ofOp f.op = some k)
    (hz : k.mbzHolds f = false) : decodeFields f = .illegal .badField := by
  unfold Format.ofOp at hk
  split at hk <;> cases hk
  case h_1 hop | h_2 hop | h_3 hop | h_6 hop => simpa [decodeFields, hop, Format.mbzHolds] using hz
  case h_4 hop => simp [Format.mbzHolds] at hz
  case h_5 hop =>
    have hslice : f.idx.extractLsb' 1 3 ≠ 0#3 := by simp [← mbzHolds_formatC_iff, hz]
    simp [decodeFields, hop, hslice]

theorem decodeCommand_badField {w : CmdWord} {k : Format} (hk : Format.ofOp (w.extractLsb' 36 4) = some k)
    (hz : k.mbzHolds (CmdFields.ofWord w) = false) : decodeCommand w = .illegal .badField :=
  decodeFields_badField (f := CmdFields.ofWord w) hk hz

/-- Formats H and Q name one of eight words of H, so that an index of 8 to 15 has a stray bit (R47). -/
theorem decodeCommand_hIndex_out_of_range {w : CmdWord}
    (hop : w.extractLsb' 36 4 = 2#4 ∨ w.extractLsb' 36 4 = 5#4) (hidx : 8 ≤ (w.extractLsb' 32 4).toNat) :
    decodeCommand w = .illegal .badField := by
  have hbit : (CmdFields.ofWord w).idx.getLsbD 3 = true := getLsbD_three_of_eight_le hidx
  rcases hop with hop | hop
  · exact decodeCommand_badField (k := .H) (by rw [hop]; rfl) (by simp [Format.mbzHolds, hbit])
  · exact decodeCommand_badField (k := .Q) (by rw [hop]; rfl) (by simp [Format.mbzHolds, hbit])

end Sys2Proof

namespace Sys2Proof.Machine

open Sys2Proof.Safety Sys2Proof.Claims

/-- No command is on the port in a reset step (30_encoding.md R40). -/
theorem currentAct_ne_reset_of_presented {s : State} {w : CmdWord} (hw : s.presented = some w) :
    s.currentAct ≠ .reset := by
  intro hr
  simp [State.presented, hr] at hw

theorem step_of_illegal_accepted {s : State} {w : CmdWord} {c : IllegalCause} (hready : ready s = true)
    (hw : s.presented = some w) (hd : decodeCommand w = .illegal c) :
    step s = .next (s.advanceHost.takeCommand.raiseIllegal c) := by
  have hidle : s.seq = .idle := ((ready_iff s).1 hready).1
  apply step_of_illegal
  rw [select_idle (currentAct_ne_reset_of_presented hw) hidle, selectHost_ready hready hw, selectWord, hd]

theorem ready_of_err {s : State} (h : s.err = true) : ready s = false := by
  simp [ready, h]

/-- What R46 and R47 both say of the step that accepts an illegal word: the error and its cause, and the frame. -/
theorem illegal_accepted_frame {s : State} {w : CmdWord} {c : IllegalCause} (hready : ready s = true)
    (hw : s.presented = some w) (hd : decodeCommand w = .illegal c) :
    ∃ t, step s = .next t ∧ t.err = true ∧ t.cause = some c ∧ ready t = false ∧ SameH s t ∧ SameM s t ∧ SameV s t ∧
      t.seq = s.seq ∧ t.rsp = none :=
  ⟨_, step_of_illegal_accepted hready hw hd, rfl, rfl, ready_of_err rfl, ⟨rfl, rfl⟩, ⟨rfl, rfl⟩, ⟨rfl, rfl⟩, rfl, rfl⟩

/-- The core is locked out (60_exceptions.md R97) and the host does not reset: what every later step keeps. -/
structure LockedOut (s : State) : Prop where
  idle : s.seq = .idle
  error : s.err = true
  silent : s.rsp = none
  noReset : NoResetAhead s

theorem currentAct_ne_reset_of_noResetAhead {s : State} (h : NoResetAhead s) : s.currentAct ≠ .reset := by
  unfold NoResetAhead at h
  unfold State.currentAct
  split
  next => simp
  next a as hacts =>
    rintro rfl
    simp [hacts] at h

theorem noResetAhead_advanceHost {s : State} (h : NoResetAhead s) : NoResetAhead s.advanceHost :=
  fun hmem => h (List.mem_of_mem_tail hmem)

/-- A locked-out core looks at nothing the host presents. -/
theorem step_of_lockedOut {s : State} (h : LockedOut s) : step s = .next s.advanceHost.noResponse := by
  apply step_of_nothing
  rw [select_idle (currentAct_ne_reset_of_noResetAhead h.noReset) h.idle, selectHost_error h.error]

theorem LockedOut.next {s : State} (h : LockedOut s) : LockedOut s.advanceHost.noResponse :=
  ⟨h.idle, h.error, rfl, noResetAhead_advanceHost h.noReset⟩

theorem run_of_lockedOut (n : Nat) {s : State} (h : LockedOut s) : ∃ u, core.run n s = .next u ∧ LockedOut u := by
  induction n generalizing s with
  | zero => exact ⟨s, rfl, h⟩
  | succ n ih =>
    rw [run_succ n (step_of_lockedOut h)]
    exact ih h.next

/-- Settles O17. The accepting step leaves the core locked out, and a run from there stays so, by induction on its length. -/
theorem reservedOpcodesFault : Obligations.ReservedOpcodesFault := by
  intro w hop
  have hd := decodeCommand_reserved hop
  refine ⟨hd, fun s hready hw => ?_⟩
  have hidle : s.seq = .idle := ((ready_iff s).1 hready).1
  obtain ⟨t, hstep, herr, hcause, hbusy, hH, hM, hV, hseq, hrsp⟩ := illegal_accepted_frame hready hw hd
  refine ⟨t, hstep, herr, by rw [hcause]; rfl, hbusy, hH, hM, hV, hseq, fun n hacts => ?_⟩
  obtain ⟨u, hrun, hu⟩ := run_of_lockedOut n ⟨hseq.trans hidle, herr, hrsp, hacts⟩
  exact ⟨u, hrun, ready_of_err hu.error, hu.silent⟩

/-- Settles O18. Each format's must-be-zero test failing is the decoder's bad-field case; the accepting step is R93's. -/
theorem strayBitsFault : Obligations.StrayBitsFault := by
  refine ⟨fun w k hk hz => ?_, fun w hop hidx => decodeCommand_hIndex_out_of_range hop hidx⟩
  have hd := decodeCommand_badField hk hz
  refine ⟨hd, fun s hready hw => ?_⟩
  obtain ⟨t, hstep, herr, hcause, hbusy, hH, hM, hV, hseq, -⟩ := illegal_accepted_frame hready hw hd
  exact ⟨t, hstep, herr, by rw [hcause]; rfl, hbusy, hH, hM, hV, hseq⟩

end Sys2Proof.Machine
end

section
/-! PROOF. The accepted legal word (30_encoding.md R40, R45), and the command `LDM` (40_compress.md R54). -/

namespace Sys2Proof

/-- Every word of opcode 3 is legal: format M has no must-be-zero bits (R42). -/
theorem decodeFields_ldm {f : CmdFields} (h : f.op = 3#4) : decodeFields f = .command (.ldm f.mIndex f.data) := by
  simp [decodeFields, h]

theorem decodeCommand_ldm {w : CmdWord} (h : w.extractLsb' 36 4 = 3#4) :
    decodeCommand w = .command (.ldm (w.extractLsb' 32 4).toFin (w.extractLsb' 0 32)) :=
  decodeFields_ldm (f := CmdFields.ofWord w) h

theorem decodeFields_ldm_fields (j : Fin 16) (v : Word) :
    decodeFields { op := 3#4, idx := BitVec.ofNat 4 j.val, data := v } = .command (.ldm j v) := by
  rw [decodeFields_ldm rfl, mIndex_ofNat]

theorem decodeCommand_ldm_word (j : Fin 16) (v : Word) :
    decodeCommand (3#4 ++ BitVec.ofNat 4 j.val ++ v) = .command (.ldm j v) :=
  (decodeCommand_toWord { op := 3#4, idx := BitVec.ofNat 4 j.val, data := v }).trans (decodeFields_ldm_fields j v)

end Sys2Proof

namespace Sys2Proof.Machine

open Sys2Proof.Claims

theorem step_of_command_accepted {s : State} {w : CmdWord} {i : Instr} (hready : ready s = true)
    (hw : s.presented = some w) (hd : decodeCommand w = .command i) :
    step s = exec i s.advanceHost.takeCommand := by
  have hidle : s.seq = .idle := ((ready_iff s).1 hready).1
  apply step_of_accept
  rw [select_idle (currentAct_ne_reset_of_presented hw) hidle, selectHost_ready hready hw, selectWord, hd]

/-- A word that a command is encoded as and decoded from is accepted as that command. -/
theorem acceptedAs_of_encode_of_decode {i : Instr} {w : CmdWord} (he : encode i = .command w)
    (hd : decodeCommand w = .command i) : AcceptedAs i w :=
  ⟨he, fun _ hready hw => step_of_command_accepted hready hw hd⟩

theorem acceptedAs_ldm (j : Fin 16) (v : Word) : AcceptedAs (.ldm j v) (3#4 ++ BitVec.ofNat 4 j.val ++ v) :=
  acceptedAs_of_encode_of_decode rfl (decodeCommand_ldm_word j v)

/-- Settles O4. The state answered is `writeM` without a response: the word and its mark are the vectors' own update, and the
frame is what the two operations keep. -/
theorem ldmWritesOneMessageWord : Obligations.LdmWritesOneMessageWord := by
  refine ⟨acceptedAs_ldm, fun _ hop => decodeCommand_ldm hop, fun j v s => ⟨_, exec_ldm j v s, ?word, ?mark, ?frame⟩⟩
  case word => exact fun k => set_getElem_fin s.m j k v
  case mark => exact fun k => set_getElem_fin s.mMark j k true
  case frame => simp [SameH, SameV, SameLatch, SameStream]

end Sys2Proof.Machine
end

section
/-! PROOF. The micro-operation a sequencer value selects (30_encoding.md R50), and the `G` micro-step
(41_quarter_round.md R63). -/

namespace Sys2Proof.Machine

open Sys2Proof.Safety Sys2Proof.Claims

/-- A micro-operation written as its sequencer value's word, and as no command word, is performed where the sequencer has
that value. -/
theorem selectedAs_of_micro {i : Instr} {q : Seq} (hmicro : q.micro = some i) (hword : encode i = .sequencer q.word)
    (hnone : i.commandWord = none) : SelectedAs i q := by
  refine ⟨hmicro, hword, hnone, fun s hseq hreset => step_of_micro (select_micro hreset ?_)⟩
  rw [hseq, hmicro]

theorem selectedAs_g (r : Fin 10) (k : Fin 8) : SelectedAs (.g r k) (.mix r k) :=
  selectedAs_of_micro rfl rfl rfl

/-- The successor of a `G` micro-step is another one or `FEED` (42_round_scheduler.md R70). -/
theorem nextSeq_ne_idle (r : Fin 10) (k : Fin 8) : nextSeq r k ≠ .idle := by
  unfold nextSeq
  split
  next => simp
  next => split <;> simp

theorem ready_of_seq_ne_idle {s : State} (h : s.seq ≠ .idle) : ready s = false :=
  Bool.eq_false_iff.2 fun hready => h ((ready_iff s).1 hready).1

/-- Settles O7. The state answered holds `gstep` of V, known word by word, and a sequencer value that is not IDLE, so that
READY is 0; the frame is what the operations keep. -/
theorem gMixesTheScheduledWords : Obligations.GMixesTheScheduledWords := by
  refine ⟨selectedAs_g, fun r k s => ⟨_, exec_g r k s, ?words, rfl, rfl, ?busy, rfl, ?frame⟩⟩
  case words =>
    exact ⟨gstep_a s.v s.m r k, gstep_b s.v s.m r k, gstep_c s.v s.m r k, gstep_d s.v s.m r k,
      gstep_other s.v s.m r k⟩
  case busy => exact ready_of_seq_ne_idle (nextSeq_ne_idle r k)
  case frame => simp [SameH, SameM, SameLatch, SameStream]

end Sys2Proof.Machine
end

section
/-! PROOF. The only path of the sequencer, and the steps that follow it (42_round_scheduler.md R70). -/

namespace Sys2Proof.Machine

open Sys2Proof.Safety Sys2Proof.Claims

/-! The successor function, a lemma per case of R70. -/

theorem nextSeq_next_step (r : Fin 10) {k k' : Fin 8} (h : k'.val = k.val + 1) : nextSeq r k = .mix r k' := by
  have hk : k.val < 7 := by omega
  simp [nextSeq, hk, ← h]

theorem nextSeq_next_round {r r' : Fin 10} (h : r'.val = r.val + 1) : nextSeq r 7 = .mix r' 0 := by
  have hr : r.val < 9 := by omega
  simp [nextSeq, hr, ← h]

theorem nextSeq_last : nextSeq 9 7 = .feed := rfl

/-! Along the path `microsDone` counts the steps, so that 79 steps done are the last value of R70. -/

theorem nextSeq_of_microsDone_lt {r : Fin 10} {k : Fin 8} (h : microsDone r k < 79) :
    ∃ r' k', nextSeq r k = .mix r' k' ∧ microsDone r' k' = microsDone r k + 1 := by
  unfold microsDone at h ⊢
  by_cases hk : k.val < 7
  · obtain ⟨k', hk'⟩ : ∃ k' : Fin 8, k'.val = k.val + 1 := ⟨⟨k.val + 1, by omega⟩, rfl⟩
    exact ⟨r, k', nextSeq_next_step r hk', by omega⟩
  · obtain rfl : k = 7 := by omega
    obtain ⟨r', hr'⟩ : ∃ r' : Fin 10, r'.val = r.val + 1 := ⟨⟨r.val + 1, by omega⟩, rfl⟩
    exact ⟨r', 0, nextSeq_next_round hr', by omega⟩

theorem nextSeq_of_microsDone_eq {r : Fin 10} {k : Fin 8} (h : microsDone r k = 79) : nextSeq r k = .feed := by
  unfold microsDone at h
  obtain rfl : r = 9 := by omega
  obtain rfl : k = 7 := by omega
  exact nextSeq_last

theorem seqAfterMicro_iterate_mix (n : Nat) (h : n < 80) :
    ∃ r k, seqAfterMicro^[n] (.mix 0 0) = .mix r k ∧ microsDone r k = n := by
  induction n with
  | zero => exact ⟨0, 0, rfl, rfl⟩
  | succ n ih =>
    obtain ⟨r, k, hn, hdone⟩ := ih (by omega)
    obtain ⟨r', k', hnext, hdone'⟩ := nextSeq_of_microsDone_lt (r := r) (k := k) (by omega)
    refine ⟨r', k', ?_, by omega⟩
    rw [Function.iterate_succ_apply', hn, seqAfterMicro, hnext]

theorem seqAfterMicro_iterate_feed : seqAfterMicro^[80] (.mix 0 0) = .feed := by
  obtain ⟨r, k, hpath, hdone⟩ := seqAfterMicro_iterate_mix 79 (by omega)
  rw [Function.iterate_succ_apply', hpath, seqAfterMicro, nextSeq_of_microsDone_eq hdone]

theorem seqAfterMicro_iterate_idle : seqAfterMicro^[81] (.mix 0 0) = .idle := by
  rw [Function.iterate_succ_apply', seqAfterMicro_iterate_feed, seqAfterMicro]

/-! What a micro-operation and a command each do to the sequencer. -/

theorem exec_micro_seq {i : Instr} {q : Seq} (h : q.micro = some i) (s : State) :
    ∃ t, exec i s = .next t ∧ t.seq = seqAfterMicro q := by
  cases q <;> cases h
  case mix r k => exact ⟨_, exec_g r k s, rfl⟩
  case feed => exact ⟨_, exec_feed s, rfl⟩

/-- A step the sequencer selects takes it to its successor (R70). -/
theorem step_micro_seq {s : State} {i : Instr} (hreset : NoReset s) (h : s.seq.micro = some i) :
    ∃ t, step s = .next t ∧ t.seq = seqAfterMicro s.seq := by
  rw [step_of_micro (select_micro hreset h)]
  exact exec_micro_seq h s.advanceHost

/-- Of the commands only `COMP` writes the sequencer (40_compress.md R55). -/
theorem exec_command_seq {w : CmdWord} {i : Instr} {s t : State} (hd : decodeCommand w = .command i)
    (h : exec i s = .next t) : t.seq = s.seq ∨ t.seq = .mix 0 0 ∧ ∃ c f, i = .comp c f := by
  cases i
  case g r k => exact absurd hd (decodeCommand_ne_g w r k)
  case feed => exact absurd hd (decodeCommand_ne_feed w)
  case comp c f => cases h; exact .inr ⟨rfl, c, f, rfl⟩
  all_goals cases h; exact .inl rfl

/-- A step that leaves IDLE is the acceptance of a `COMP`: each other case of a step keeps IDLE or sets it. -/
theorem step_leaving_idle {s t : State} (h : step s = .next t) (hidle : s.seq = .idle) (hrun : t.seq ≠ .idle) :
    t.seq = .mix 0 0 ∧ ∃ w c f, s.presented = some w ∧ decodeCommand w = .command (.comp c f) := by
  rcases step_cases h with ⟨-, rfl⟩ | ⟨-, i, hmicro, -⟩ | ⟨-, -, w, i, hw, hd, hexec⟩ | ⟨-, -, w, c, -, -, rfl⟩ |
    ⟨-, -, -, rfl⟩
  case inl => simp at hrun
  case inr.inl => simp [hidle, Seq.micro] at hmicro
  case inr.inr.inl =>
    obtain hkept | ⟨hstart, c, f, rfl⟩ := exec_command_seq hd hexec
    · simp [hkept, hidle] at hrun
    · exact ⟨hstart, w, c, f, hw, hd⟩
  case inr.inr.inr.inl => simp [hidle] at hrun
  case inr.inr.inr.inr => simp [hidle] at hrun

/-- Settles O29. The path is followed by induction on the steps done, and the machine's steps by the inversion of `step`. -/
theorem sequencerFollowsThePath : Obligations.SequencerFollowsThePath :=
  ⟨fun r _ _ h => nextSeq_next_step r h, fun _ _ h => nextSeq_next_round h, nextSeq_last,
    fun n => seqAfterMicro_iterate_mix n.val n.isLt, seqAfterMicro_iterate_feed, seqAfterMicro_iterate_idle,
    fun _ _ hreset h => step_micro_seq hreset h, fun _ _ h hidle hrun => step_leaving_idle h hidle hrun⟩

end Sys2Proof.Machine
end

section
/-! PROOF. The state accumulator: the commands `NOP`, `INIT`, `LDH` and the micro-step `FEED` (43_state_accumulator.md R74, R75,
R77, R78), and the command that is held while READY is 0 (30_encoding.md R40). -/

namespace Sys2Proof

/-- Format Z is all zero behind the opcode, so that any other bit is a stray one (30_encoding.md R42, R47). -/
theorem decodeCommand_formatZ_badField {w : CmdWord} (hop : Format.ofOp (w.extractLsb' 36 4) = some .Z)
    (hne : w.extractLsb' 32 4 ≠ 0#4 ∨ w.extractLsb' 0 32 ≠ 0#32) : decodeCommand w = .illegal .badField := by
  apply decodeCommand_badField hop
  rcases hne with hidx | hdata
  · simp [Format.mbzHolds, CmdFields.ofWord, hidx]
  · simp [Format.mbzHolds, CmdFields.ofWord, hdata]

/-- Bit 35 of a command word is `idx[3]` (30_encoding.md R41). -/
theorem ofWord_idx_getLsbD_three (w : CmdWord) : (CmdFields.ofWord w).idx.getLsbD 3 = w.getLsbD 35 := by
  simp [CmdFields.ofWord]

theorem decodeCommand_ldh_badField {w : CmdWord} (hop : w.extractLsb' 36 4 = 2#4) (hbit : w.getLsbD 35 = true) :
    decodeCommand w = .illegal .badField :=
  decodeCommand_badField (k := .H) (by rw [hop]; rfl) (by simp [Format.mbzHolds, ofWord_idx_getLsbD_three, hbit])

theorem decodeFields_ldh_fields (i : Fin 8) (v : Word) :
    decodeFields { op := 2#4, idx := BitVec.ofNat 4 i.val, data := v } = .command (.ldh i v) := by
  have hbit : ∀ i : Fin 8, (BitVec.ofNat 4 i.val)[3] = false := by decide
  simp [decodeFields, hbit i, hIndex_ofNat]

/-- The `idx` field of an H-index, `{0, i}` in the spec's writing, is the index in four bits (30_encoding.md R44). -/
theorem hIndex_word_eq_toWord (op : BitVec 4) (i : Fin 8) (v : Word) :
    (op ++ 0#1 ++ BitVec.ofNat 3 i.val ++ v : CmdWord) =
      CmdFields.toWord { op := op, idx := BitVec.ofNat 4 i.val, data := v } := by
  have hfields : ∀ (op : BitVec 4) (i : Fin 8),
      (op ++ 0#1 ++ BitVec.ofNat 3 i.val : BitVec 8) = op ++ BitVec.ofNat 4 i.val := by decide
  exact congrArg (fun x : BitVec 8 => (x ++ v : CmdWord)) (hfields op i)

end Sys2Proof

namespace Sys2Proof.Machine

open Sys2Proof.Safety Sys2Proof.Claims

theorem acceptedAs_nop : AcceptedAs .nop 0x0000000000#40 :=
  acceptedAs_of_encode_of_decode rfl rfl

theorem acceptedAs_init : AcceptedAs .init 0x1000000000#40 :=
  acceptedAs_of_encode_of_decode rfl rfl

theorem acceptedAs_ldh (i : Fin 8) (v : Word) :
    AcceptedAs (.ldh i v) (2#4 ++ 0#1 ++ BitVec.ofNat 3 i.val ++ v) := by
  rw [hIndex_word_eq_toWord 2#4 i v]
  exact acceptedAs_of_encode_of_decode rfl ((decodeCommand_toWord _).trans (decodeFields_ldh_fields i v))

theorem selectedAs_feed : SelectedAs .feed .feed :=
  selectedAs_of_micro rfl rfl rfl

/-- A word is on the port only in a step in which the host presents (30_encoding.md R40). -/
theorem currentAct_of_presented {s : State} {w : CmdWord} (hw : s.presented = some w) : s.currentAct = .present := by
  cases hact : s.currentAct with
  | present => rfl
  | pause | withdraw | reset => simp [State.presented, hact] at hw

theorem advanceHost_cmds_of_ne_withdraw {s : State} (h : s.currentAct ≠ .withdraw) : s.advanceHost.cmds = s.cmds := by
  simp [h]

theorem step_answers (s : State) : ∃ t, step s = .next t := by
  cases h : select s with
  | reset => exact ⟨_, step_of_reset h⟩
  | micro i => rw [step_of_micro h]; exact exec_answers i _
  | accept i => rw [step_of_accept h]; exact exec_answers i _
  | illegal c => exact ⟨_, step_of_illegal h⟩
  | nothing => exact ⟨_, step_of_nothing h⟩

/-- Only an acceptance takes a word from the stream, and that needs READY; only the host withdraws one (30_encoding.md R40). -/
theorem step_keeps_stream_of_not_ready {s t : State} (h : step s = .next t) (hbusy : ready s = false)
    (hact : s.currentAct ≠ .withdraw) : t.cmds = s.cmds := by
  have hhost := advanceHost_cmds_of_ne_withdraw hact
  rcases step_cases h with ⟨-, rfl⟩ | ⟨-, i, -, hexec⟩ | ⟨-, hready, -⟩ | ⟨-, hready, -⟩ | ⟨-, -, -, rfl⟩
  case inl => exact hhost
  case inr.inl =>
    obtain ⟨-, -, hcmds, -⟩ := exec_keeps_latch_and_stream hexec
    exact hcmds.trans hhost
  case inr.inr.inl | inr.inr.inr.inl => simp [hbusy] at hready
  case inr.inr.inr.inr => exact hhost

/-- The numbers of R74: IV with the parameter constant in word 0. -/
theorem initialH_eq :
    initialH = #v[0x6A09E667#32 ^^^ 0x01010020#32, 0xBB67AE85#32, 0x3C6EF372#32, 0xA54FF53A#32,
                  0x510E527F#32, 0x9B05688C#32, 0x1F83D9AB#32, 0x5BE0CD19#32] := rfl

/-- Settles O1. The meaning only clears the response port; the held word stays because a step without READY accepts none. -/
theorem nopDoesNothing : Obligations.NopDoesNothing := by
  refine ⟨acceptedAs_nop, fun w hop hne => decodeCommand_formatZ_badField (by rw [hop]; rfl) hne,
    fun s => ⟨_, exec_nop s, ?frame⟩, fun s hbusy hw => ?held⟩
  case frame => simp [SameH, SameM, SameV, SameLatch, SameStream]
  case held =>
    have hact : s.currentAct ≠ .withdraw := by simp [currentAct_of_presented hw]
    obtain ⟨t, ht⟩ := step_answers s
    exact ⟨t, ht, step_keeps_stream_of_not_ready ht hbusy hact⟩

/-- Settles O2. The state answered is `loadH` of the initial hash state without a response. -/
theorem initLoadsTheInitialHashState : Obligations.InitLoadsTheInitialHashState := by
  refine ⟨acceptedAs_init, fun w hop hne => decodeCommand_formatZ_badField (by rw [hop]; rfl) hne,
    fun s => ⟨_, exec_init s, initialH_eq, rfl, ?marks, ?frame⟩⟩
  case marks => simp
  case frame => simp [SameM, SameV, SameLatch, SameStream]

/-- Settles O3. The state answered is `writeH` without a response: the word and its mark are the vectors' own update. -/
theorem ldhWritesOneHashWord : Obligations.LdhWritesOneHashWord := by
  refine ⟨acceptedAs_ldh, fun _ hop hbit => decodeCommand_ldh_badField hop hbit,
    fun i v s => ⟨_, exec_ldh i v s, ?word, ?mark, ?frame⟩⟩
  case word => exact fun k => set_getElem_fin s.h i k v
  case mark => exact fun k => set_getElem_fin s.hMark i k true
  case frame => simp [SameM, SameV, SameLatch, SameStream]

/-- Settles O8. The state answered holds `feed` of H and V, known word by word, and the sequencer at IDLE, so that READY is
1 but for the error latch, which `FEED` keeps. -/
theorem feedFoldsVIntoH : Obligations.FeedFoldsVIntoH := by
  refine ⟨selectedAs_feed, fun s => ⟨_, exec_feed s, ?words, rfl, rfl, ?ready, rfl, ?frame⟩⟩
  case words => exact fun i => feed_getElem s.h s.v i.val i.isLt
  case ready => exact fun herr => (ready_iff _).2 ⟨rfl, herr⟩
  case frame => simp [SameM, SameV, SameLatch, SameStream]

end Sys2Proof.Machine
end

section
/-! PROOF. IllegalCommand: its entry (60_exceptions.md R93), the latch that holds until a reset (R97), and the priorities of one
step (R95). -/

namespace Sys2Proof

/-- The decoder's reserved-opcode case is the last one: no other opcode ends in it (30_encoding.md R45). -/
theorem six_le_op_of_decodeFields_reserved {f : CmdFields} (h : decodeFields f = .illegal .reservedOp) :
    6 ≤ f.op.toNat := by
  unfold decodeFields at h
  split at h
  case h_7 => grind
  case h_4 => cases h
  all_goals split at h <;> cases h

theorem decodeCommand_reserved_iff (w : CmdWord) :
    decodeCommand w = .illegal .reservedOp ↔ 6 ≤ (w.extractLsb' 36 4).toNat :=
  ⟨six_le_op_of_decodeFields_reserved (f := CmdFields.ofWord w), decodeCommand_reserved⟩

/-- A word has one cause only, and a reserved opcode has the other one. -/
theorem op_le_five_of_decodeCommand_badField {w : CmdWord} (h : decodeCommand w = .illegal .badField) :
    (w.extractLsb' 36 4).toNat ≤ 5 := by
  by_contra hop
  have hreserved : decodeCommand w = .illegal .reservedOp := decodeCommand_reserved (by omega)
  rw [h] at hreserved
  cases hreserved

end Sys2Proof

namespace Sys2Proof.Machine

open Sys2Proof.Safety Sys2Proof.Claims

/-! The checked step, where it leaves the written marks unread. -/

theorem checkedStep_of_illegal {s : State} {c : IllegalCause} (h : select s = .illegal c) :
    checkedStep s = .fault (.illegalCommand c) := by
  simp [checkedStep, h]

theorem checkedStep_of_reset {s : State} (h : select s = .reset) : checkedStep s = step s := by
  simp [checkedStep, h]

theorem select_illegal_of_presented {s : State} {w : CmdWord} {c : IllegalCause} (hready : ready s = true)
    (hw : s.presented = some w) (hd : decodeCommand w = .illegal c) : select s = .illegal c := by
  have hidle : s.seq = .idle := ((ready_iff s).1 hready).1
  rw [select_idle (currentAct_ne_reset_of_presented hw) hidle, selectHost_ready hready hw, selectWord, hd]

/-! The host's stream in one step. -/

/-- An accepted word is the only one that leaves the stream: what is presented is not withdrawn (30_encoding.md R40). -/
theorem takeCommand_cmds_of_presented {s : State} {w : CmdWord} (hw : s.presented = some w) :
    s.advanceHost.takeCommand.cmds = s.cmds.tail := by
  simp [currentAct_of_presented hw]

theorem advanceHost_cmds_eq_or_tail (s : State) :
    s.advanceHost.cmds = s.cmds ∨ s.advanceHost.cmds = s.cmds.tail := by
  by_cases hact : s.currentAct = .withdraw
  · exact .inr (by simp [hact])
  · exact .inl (advanceHost_cmds_of_ne_withdraw hact)

/-- What is in the stream makes no difference to the host's side of a step in which it withdraws nothing. -/
theorem advanceHost_with_cmds {s : State} (h : s.currentAct ≠ .withdraw) (cs : List CmdWord) :
    ({ s with cmds := cs } : State).advanceHost = { s.advanceHost with cmds := cs } := by
  have hact : ({ s with cmds := cs } : State).currentAct ≠ .withdraw := h
  simp [State.advanceHost, hact]

/-- An acceptance takes the presented word, which the host then does not withdraw, so that no step takes two. -/
theorem step_cmds_eq_or_tail {s t : State} (h : step s = .next t) : t.cmds = s.cmds ∨ t.cmds = s.cmds.tail := by
  rcases step_cases h with ⟨-, rfl⟩ | ⟨-, i, -, hexec⟩ | ⟨-, -, w, i, hw, -, hexec⟩ | ⟨-, -, w, c, hw, -, rfl⟩ |
    ⟨-, -, -, rfl⟩
  case inl => exact advanceHost_cmds_eq_or_tail s
  case inr.inl =>
    obtain ⟨-, -, hcmds, -⟩ := exec_keeps_latch_and_stream hexec
    rw [hcmds]
    exact advanceHost_cmds_eq_or_tail s
  case inr.inr.inl =>
    obtain ⟨-, -, hcmds, -⟩ := exec_keeps_latch_and_stream hexec
    exact .inr (hcmds.trans (takeCommand_cmds_of_presented hw))
  case inr.inr.inr.inl => exact .inr (takeCommand_cmds_of_presented hw)
  case inr.inr.inr.inr => exact advanceHost_cmds_eq_or_tail s

/-- A reset step reads nothing of the stream (70_reset_and_hazards.md R102). -/
theorem step_reset_with_cmds {s : State} (h : s.currentAct = .reset) (cs : List CmdWord) :
    step { s with cmds := cs } = .next { s.advanceHost.resetStep with cmds := cs } := by
  have hkept : s.currentAct ≠ .withdraw := by simp [h]
  have hsel : select { s with cmds := cs } = .reset := select_reset h
  rw [step_of_reset hsel, advanceHost_with_cmds hkept]
  rfl

/-! The error latch. -/

/-- While ERR is 1 the idle core looks at nothing the host presents. -/
theorem step_of_err_idle {s : State} (hidle : s.seq = .idle) (herr : s.err = true) (hreset : NoReset s) :
    step s = .next s.advanceHost.noResponse := by
  apply step_of_nothing
  rw [select_idle hreset hidle, selectHost_error herr]

/-- Settles O12. The accepting step leaves ERR at 1 and the sequencer IDLE, so that the step after it, without a reset,
performs nothing. -/
theorem illegalCommandEntry : Obligations.IllegalCommandEntry := by
  intro s w c hready hw hd
  have hidle : s.seq = .idle := ((ready_iff s).1 hready).1
  obtain ⟨t, hstep, herr, hcause, hbusy, hH, hM, hV, hseq, hrsp⟩ := illegal_accepted_frame hready hw hd
  have hcmds : t.cmds = s.cmds.tail := by
    rw [step_of_illegal_accepted hready hw hd] at hstep
    cases hstep
    exact takeCommand_cmds_of_presented hw
  refine ⟨checkedStep_of_illegal (select_illegal_of_presented hready hw hd), t, hstep, herr, hcause, hH, hM, hV,
    hseq.trans hidle, hrsp, hbusy, hcmds, fun u hreset hnext => ?after⟩
  case after =>
    rw [step_of_err_idle (hseq.trans hidle) herr hreset] at hnext
    cases hnext
    exact herr

/-- Settles O13. The control invariant has the sequencer IDLE, so that a step without a reset is the host's side alone. -/
theorem errorLatchHoldsUntilReset : Obligations.ErrorLatchHoldsUntilReset := by
  intro s hinv herr
  obtain ⟨-, hlatched, -⟩ := hinv
  have hidle : s.seq = .idle := hlatched herr
  exact ⟨ready_of_err herr, hidle, fun hreset => ⟨_, step_of_err_idle hidle herr hreset, ⟨rfl, rfl⟩, ⟨rfl, rfl⟩,
    ⟨rfl, rfl⟩, rfl, ⟨rfl, rfl⟩, rfl, advanceHost_cmds_of_ne_withdraw⟩⟩

/-- Settles O19, a priority of R95 after the other: the opcode before the fields, decoding before the marks, one word a step,
reset before everything. -/
theorem decodingComesBeforeMarksAndResetBeforeAll : Obligations.DecodingComesBeforeMarksAndResetBeforeAll := by
  refine ⟨decodeCommand_reserved_iff, fun _ h => op_le_five_of_decodeCommand_badField h,
    fun _ _ _ hready hw hd => checkedStep_of_illegal (select_illegal_of_presented hready hw hd),
    fun _ _ h => step_cmds_eq_or_tail h, fun s cs hact => ?reset⟩
  case reset =>
    have hsel := select_reset hact
    exact ⟨_, step_of_reset hsel, step_reset_with_cmds hact cs, checkedStep_of_reset hsel⟩

end Sys2Proof.Machine
end

section
/-! PROOF. The reset step (70_reset_and_hazards.md R102), and the error latch that only it clears (60_exceptions.md R96). -/

namespace Sys2Proof.Machine

open Sys2Proof.Safety Sys2Proof.Claims

/-- The core's part of a reset step writes the control state of R26, so that READY is 1 after it. -/
theorem ready_resetStep (s : State) : ready s.resetStep = true :=
  (ready_iff _).2 ⟨s.resetStep_seq, s.resetStep_err⟩

/-- With ERR at 1 no command is accepted, and of the other steps only a reset writes the latch. -/
theorem step_keeps_latch_of_err {s t : State} (h : step s = .next t) (herr : s.err = true) (hreset : NoReset s) :
    SameLatch s t := by
  have hbusy : ready s = false := ready_of_err herr
  rcases step_cases h with ⟨hr, -⟩ | ⟨-, i, -, hexec⟩ | ⟨-, hready, -⟩ | ⟨-, hready, -⟩ | ⟨-, -, -, rfl⟩
  case inl => exact absurd hr hreset
  case inr.inl =>
    obtain ⟨hsame, hcause, -⟩ := exec_keeps_latch_and_stream hexec
    exact ⟨hsame, hcause⟩
  case inr.inr.inl | inr.inr.inr.inl => simp [hbusy] at hready
  case inr.inr.inr.inr => exact ⟨rfl, rfl⟩

/-- Settles O14. The host's side of a reset step withdraws nothing, and the core's part writes the rest; any other step from
ERR 1 keeps the latch. -/
theorem resetStepFromAnyState : Obligations.ResetStepFromAnyState := by
  refine ⟨fun s hact => ?reset, fun s t herr hstep hclear => ?only⟩
  case reset =>
    have hstream : s.advanceHost.cmds = s.cmds := advanceHost_cmds_of_ne_withdraw (by simp [hact])
    exact ⟨_, step_of_reset (select_reset hact), rfl, rfl, rfl, by simp, by simp, by simp, rfl, ready_resetStep _, hstream⟩
  case only =>
    by_contra hreset
    obtain ⟨hkept, -⟩ := step_keeps_latch_of_err hstep herr hreset
    simp [hkept, herr] at hclear

end Sys2Proof.Machine
end

section
/-! PROOF. The decoder and the encoder are inverse on the commands (30_encoding.md R42 to R47) and on the sequencer's values
(R49), and the opcode map is the decoder (R43). -/

namespace Sys2Proof

/-! From an instruction to its word and back. -/

theorem decodeFields_comp_fields (t : Word) (f : Bool) :
    decodeFields { op := 4#4, idx := (BitVec.ofBool f).zeroExtend 4, data := t } = .command (.comp t f) := by
  cases f <;> simp [decodeFields, CmdFields.finalFlag]

theorem decodeFields_rdh_fields (i : Fin 8) :
    decodeFields { op := 5#4, idx := BitVec.ofNat 4 i.val, data := 0#32 } = .command (.rdh i) := by
  have hbit : ∀ i : Fin 8, (BitVec.ofNat 4 i.val)[3] = false := by decide
  simp [decodeFields, hbit i, hIndex_ofNat]

/-- Decoding the fields a host command is written in gives the command (30_encoding.md R45). -/
theorem decodeFields_of_written {i : Instr} {f : CmdFields} (h : i.written = .command f) :
    decodeFields f = .command i := by
  cases i <;> cases h
  case nop | init => rfl
  case ldh i v => exact decodeFields_ldh_fields i v
  case ldm j v => exact decodeFields_ldm_fields j v
  case comp t f => exact decodeFields_comp_fields t f
  case rdh i => exact decodeFields_rdh_fields i

theorem decodeCommand_of_encode {i : Instr} {w : CmdWord} (h : encode i = .command w) :
    decodeCommand w = .command i := by
  unfold encode at h
  cases hi : i.written with
  | sequencer q => simp [hi, Written.encode] at h
  | command f =>
    obtain rfl : f.toWord = w := by simpa [hi, Written.encode] using h
    rw [decodeCommand_toWord, decodeFields_of_written hi]

theorem Seq.ofFields_fields (q : Seq) : Seq.ofFields q.fields = some q := by
  cases q with
  | idle => rfl
  | feed => rfl
  | mix r s =>
    have hmix : ∀ (r : Fin 10) (s : Fin 8), Seq.ofFields (Seq.mix r s).fields = some (.mix r s) := by decide
    exact hmix r s

theorem Seq.ofWord_word (q : Seq) : Seq.ofWord q.word = some q := by
  rw [Seq.ofWord, Seq.word, SeqFields.ofWord_toWord, Seq.ofFields_fields]

/-- The encoding of a micro-operation is the word of the sequencer value that selects it (30_encoding.md R50). -/
theorem decodeSequencer_word (q : Seq) : decodeSequencer q.word = q.micro := by
  rw [decodeSequencer, Seq.ofWord_word, Option.bind_some]

theorem decodeEncoded_command {i : Instr} {w : CmdWord} (h : decodeCommand w = .command i) :
    decodeEncoded (.command w) = some i := by
  simp [decodeEncoded, h]

theorem decodeEncoded_encode (i : Instr) : decodeEncoded (encode i) = some i := by
  cases i
  case g r k => exact decodeSequencer_word (.mix r k)
  case feed => exact decodeSequencer_word .feed
  all_goals exact decodeEncoded_command (decodeCommand_of_encode rfl)

/-- Settles O21. The operand types are the exact ranges, so the hypothesis of being well formed is not needed. -/
theorem decodeOfEncodeIsTheInstruction : Obligations.DecodeOfEncodeIsTheInstruction :=
  fun i _ => decodeEncoded_encode i

/-! From a word to its instruction and back. -/

/-- An index field whose top bit is 0 is the field of its H-index (30_encoding.md R44). -/
theorem ofNat_hIndex {f : CmdFields} (h : f.idx.getLsbD 3 = false) : BitVec.ofNat 4 f.hIndex.val = f.idx := by
  have hidx : ∀ idx : BitVec 4, idx.getLsbD 3 = false → BitVec.ofNat 4 (idx.extractLsb' 0 3).toFin.val = idx := by decide
  exact hidx f.idx h

/-- An index field that is zero but for its lowest bit is the field of its final flag (30_encoding.md R44). -/
theorem zeroExtend_finalFlag {f : CmdFields} (h : f.idx.extractLsb' 1 3 = 0#3) :
    (BitVec.ofBool f.finalFlag).zeroExtend 4 = f.idx := by
  have hidx : ∀ idx : BitVec 4, idx.extractLsb' 1 3 = 0#3 → (BitVec.ofBool (idx.getLsbD 0)).zeroExtend 4 = idx := by decide
  exact hidx f.idx h

/-- What decodes to a command is the command's written form, opcode by opcode (30_encoding.md R45). -/
theorem written_of_decodeFields {f : CmdFields} {i : Instr} (h : decodeFields f = .command i) : i.written = .command f := by
  obtain ⟨op, idx, data⟩ := f
  unfold decodeFields at h
  split at h
  case h_7 => cases h
  case h_4 hop =>
    cases h
    obtain rfl : op = 3#4 := BitVec.eq_of_toNat_eq hop
    simp [Instr.written, CmdFields.mIndex]
  all_goals split at h <;> cases h
  case h_1.isTrue hop hz =>
    obtain rfl : op = 0#4 := BitVec.eq_of_toNat_eq hop
    obtain ⟨rfl, rfl⟩ := hz
    rfl
  case h_2.isTrue hop hz =>
    obtain rfl : op = 1#4 := BitVec.eq_of_toNat_eq hop
    obtain ⟨rfl, rfl⟩ := hz
    rfl
  case h_3.isTrue hop hz =>
    obtain rfl : op = 2#4 := BitVec.eq_of_toNat_eq hop
    simp only [Instr.written, ofNat_hIndex hz]
  case h_5.isTrue hop hz =>
    obtain rfl : op = 4#4 := BitVec.eq_of_toNat_eq hop
    simp only [Instr.written, zeroExtend_finalFlag hz]
  case h_6.isTrue hop hz =>
    obtain rfl : op = 5#4 := BitVec.eq_of_toNat_eq hop
    obtain ⟨hidx, rfl⟩ := hz
    simp only [Instr.written, ofNat_hIndex hidx]

theorem encode_of_decodeCommand {w : CmdWord} {i : Instr} (h : decodeCommand w = .command i) : encode i = .command w := by
  rw [encode, written_of_decodeFields h, Written.encode, CmdFields.toWord_ofWord]

theorem Instr.wellFormed_eq_true (i : Instr) : i.wellFormed = true := by
  cases i with
  | nop => exact Laws.Encoding.nop.1
  | init => exact Laws.Encoding.init.1
  | ldh i v => exact (Laws.Encoding.ldh i v).1
  | ldm j v => exact (Laws.Encoding.ldm j v).1
  | comp t f => exact (Laws.Encoding.comp t f).1
  | rdh i => exact (Laws.Encoding.rdh i).1
  | g r k => exact (Laws.Encoding.g r k).1
  | feed => exact Laws.Encoding.feed.1

/-- Fields that pass the opcode and must-be-zero tests are a command's: the decoder makes the same tests. -/
theorem decodeFields_of_wellFormed {f : CmdFields} (h : f.wellFormed = true) : ∃ i, decodeFields f = .command i := by
  unfold CmdFields.wellFormed Format.ofOp at h
  split at h
  case h_2 => cases h
  case h_1 k hk =>
    split at hk <;> cases hk
    case h_4 hop => exact ⟨_, decodeFields_ldm (BitVec.eq_of_toNat_eq hop)⟩
    case h_5 hop =>
      have hz := (mbzHolds_formatC_iff f).1 h
      exact ⟨.comp f.data f.finalFlag, by simp [decodeFields, hop, hz]⟩
    case h_1 hop => exact ⟨.nop, by simpa [decodeFields, hop, Format.mbzHolds] using h⟩
    case h_2 hop => exact ⟨.init, by simpa [decodeFields, hop, Format.mbzHolds] using h⟩
    case h_3 hop => exact ⟨.ldh f.hIndex f.data, by simpa [decodeFields, hop, Format.mbzHolds] using h⟩
    case h_6 hop => exact ⟨.rdh f.hIndex, by simpa [decodeFields, hop, Format.mbzHolds] using h⟩

/-- Settles O20. A command's written form is well formed, and it is the word that decodes to it. -/
theorem decoderAcceptsExactlyTheWellFormedWords : Obligations.DecoderAcceptsExactlyTheWellFormedWords := by
  refine fun w => ⟨⟨decodeFields_of_wellFormed, fun ⟨i, hi⟩ => ?_⟩, fun _ => encode_of_decodeCommand⟩
  have hwf := i.wellFormed_eq_true
  rwa [Instr.wellFormed, written_of_decodeFields hi] at hwf

/-! The opcode map (30_encoding.md R43). -/

theorem CmdFields.toWord_injective {f g : CmdFields} (h : f.toWord = g.toWord) : f = g := by
  rw [← CmdFields.ofWord_toWord f, h, CmdFields.ofWord_toWord]

/-- A row's mask keeps the opcode and the row's must-be-zero bits, so it admits a word by these. -/
theorem Row.admits_iff {row : Row} (op idx : BitVec 4) (data : Word)
    (hpattern : row.pattern = (CmdFields.mk op 0#4 0#32).toWord)
    (hmask : row.mask = (CmdFields.mk (BitVec.allOnes 4) idx data).toWord) {w : CmdWord} :
    row.admits w = true ↔ (CmdFields.ofWord w).op = op ∧ (CmdFields.ofWord w).idx &&& idx = 0#4 ∧
      (CmdFields.ofWord w).data &&& data = 0#32 := by
  have hand : w &&& row.mask = (CmdFields.mk (CmdFields.ofWord w).op ((CmdFields.ofWord w).idx &&& idx)
      ((CmdFields.ofWord w).data &&& data)).toWord := by
    rw [hmask, ← CmdFields.toWord_ofWord w, CmdFields.toWord_and, CmdFields.ofWord_toWord, BitVec.and_allOnes]
  rw [Row.admits, beq_iff_eq, hand, hpattern, ← CmdFields.mk.injEq]
  exact ⟨CmdFields.toWord_injective, congrArg CmdFields.toWord⟩

theorem and_eight_eq_zero_iff (idx : BitVec 4) : idx &&& 8#4 = 0#4 ↔ idx.getLsbD 3 = false := by
  revert idx
  decide

theorem and_fourteen_eq_zero_iff (idx : BitVec 4) : idx &&& 14#4 = 0#4 ↔ idx.extractLsb' 1 3 = 0#3 := by
  revert idx
  decide

/-- A word that a row admits decodes to a command of the row, row by row: the decoder tests the same bits. -/
theorem decodeCommand_of_admits {row : Row} {w : CmdWord} (hrow : row ∈ opcodeMap) (h : row.admits w = true) :
    ∃ i, decodeCommand w = .command i ∧ i.mnemonic = row.mnemonic := by
  simp only [opcodeMap, List.mem_cons, List.not_mem_nil, or_false] at hrow
  rcases hrow with rfl | rfl | rfl | rfl | rfl | rfl
  case inl =>
    obtain ⟨hop, hz⟩ := (Row.admits_iff 0#4 (BitVec.allOnes 4) (BitVec.allOnes 32) rfl rfl).1 h
    rw [BitVec.and_allOnes, BitVec.and_allOnes] at hz
    exact ⟨.nop, by simp [decodeCommand, decodeFields, hop, hz], rfl⟩
  case inr.inl =>
    obtain ⟨hop, hz⟩ := (Row.admits_iff 1#4 (BitVec.allOnes 4) (BitVec.allOnes 32) rfl rfl).1 h
    rw [BitVec.and_allOnes, BitVec.and_allOnes] at hz
    exact ⟨.init, by simp [decodeCommand, decodeFields, hop, hz], rfl⟩
  case inr.inr.inl =>
    obtain ⟨hop, hz, -⟩ := (Row.admits_iff 2#4 8#4 0#32 rfl rfl).1 h
    rw [and_eight_eq_zero_iff] at hz
    exact ⟨_, by simp only [decodeCommand, decodeFields, hop, hz]; rfl, rfl⟩
  case inr.inr.inr.inl =>
    obtain ⟨hop, -⟩ := (Row.admits_iff 3#4 0#4 0#32 rfl rfl).1 h
    exact ⟨_, decodeFields_ldm hop, rfl⟩
  case inr.inr.inr.inr.inl =>
    obtain ⟨hop, hz, -⟩ := (Row.admits_iff 4#4 14#4 0#32 rfl rfl).1 h
    rw [and_fourteen_eq_zero_iff] at hz
    exact ⟨_, by simp only [decodeCommand, decodeFields, hop, hz]; rfl, rfl⟩
  case inr.inr.inr.inr.inr =>
    obtain ⟨hop, hz, hdata⟩ := (Row.admits_iff 5#4 8#4 (BitVec.allOnes 32) rfl rfl).1 h
    rw [and_eight_eq_zero_iff] at hz
    rw [BitVec.and_allOnes] at hdata
    exact ⟨_, by simp only [decodeCommand, decodeFields, hop, hz, hdata]; rfl, rfl⟩

/-- The encoding of a command is admitted by the row of its mnemonic (Laws/PerInstr.lean), instruction by instruction. -/
theorem ofItsRow_encode (i : Instr) : Laws.Encoding.OfItsRow i (encode i) := by
  cases i with
  | nop => exact Laws.Encoding.nop.2
  | init => exact Laws.Encoding.init.2
  | ldh i v => exact (Laws.Encoding.ldh i v).2
  | ldm j v => exact (Laws.Encoding.ldm j v).2
  | comp t f => exact (Laws.Encoding.comp t f).2
  | rdh i => exact (Laws.Encoding.rdh i).2
  | g r k => exact (Laws.Encoding.g r k).2
  | feed => exact Laws.Encoding.feed.2

theorem exists_admits_of_decodeCommand {w : CmdWord} {i : Instr} (h : decodeCommand w = .command i) :
    ∃ row ∈ opcodeMap, row.mnemonic = i.mnemonic ∧ row.admits w = true := by
  have hrow := ofItsRow_encode i
  rwa [encode_of_decodeCommand h] at hrow

/-- Settles O22. A command's encoding is of its row, and what a row admits decodes to its command; two rows that admit one word
have that word's mnemonic, which no two rows share. -/
theorem opcodeMapIsExact : Obligations.OpcodeMapIsExact := by
  refine ⟨fun w n => ⟨?admitted, ?decoded⟩, fun w a b ha hb hwa hwb => ?disjoint⟩
  case admitted =>
    rintro ⟨i, hi, rfl⟩
    exact exists_admits_of_decodeCommand hi
  case decoded =>
    rintro ⟨row, hrow, rfl, h⟩
    exact decodeCommand_of_admits hrow h
  case disjoint =>
    obtain ⟨i, hi, hia⟩ := decodeCommand_of_admits ha hwa
    obtain ⟨i', hi', hib⟩ := decodeCommand_of_admits hb hwb
    obtain rfl : i = i' := by simpa [hi] using hi'
    have hunique : ∀ a ∈ opcodeMap, ∀ b ∈ opcodeMap, a.mnemonic = b.mnemonic → a = b := by decide
    exact hunique a ha b hb (hia.symm.trans hib)

/-! The sequencer word (30_encoding.md R49). -/

/-- The fields that have a sequencer value are that value's fields, phase by phase. -/
theorem fields_of_ofFields {f : SeqFields} {q : Seq} (h : Seq.ofFields f = some q) : q.fields = f := by
  obtain ⟨phase, rnd, step⟩ := f
  unfold Seq.ofFields at h
  split at h
  case h_4 => cases h
  all_goals split at h <;> cases h
  case h_1.isTrue hphase hz =>
    obtain rfl : phase = 0#2 := BitVec.eq_of_toNat_eq hphase
    obtain ⟨rfl, rfl⟩ := hz
    rfl
  case h_2.isTrue hphase _ =>
    obtain rfl : phase = 1#2 := BitVec.eq_of_toNat_eq hphase
    simp [Seq.fields]
  case h_3.isTrue hphase hz =>
    obtain rfl : phase = 2#2 := BitVec.eq_of_toNat_eq hphase
    obtain ⟨rfl, rfl⟩ := hz
    rfl

/-- Settles O23. -/
theorem sequencerWordsAreExact : Obligations.SequencerWordsAreExact := by
  refine fun w q => ⟨fun h => ?_, fun h => h ▸ Seq.ofWord_word q⟩
  rw [Seq.word, fields_of_ofFields h, SeqFields.toWord_ofWord]

/-- Settles O24. Each worked word is the encoding of its command, and so decodes to it. -/
theorem workedEncodingsDecode : Obligations.WorkedEncodingsDecode := by
  have hencode : ∀ p ∈ Claims.workedEncodings, encode p.2 = .command p.1 := by decide
  exact fun p hp => ⟨decodeCommand_of_encode (hencode p hp), hencode p hp⟩

end Sys2Proof
end

section
/-! PROOF. What changes a register, a mark or the response port: the operations that can, said once per field, and the steps
that perform them (10_state.md sections 2 and 6, 43_state_accumulator.md sections 3 and 5, 60_exceptions.md R96). -/

namespace Sys2Proof.Machine

open Sys2Proof.Safety Sys2Proof.Claims

/-- The micro-operation a sequencer value selects names the value (30_encoding.md R50). -/
theorem Seq.micro_cases {q : Seq} {i : Instr} (h : q.micro = some i) :
    (∃ r k, q = .mix r k ∧ i = .g r k) ∨ (q = .feed ∧ i = .feed) := by
  cases q <;> cases h
  case mix r k => exact .inl ⟨r, k, rfl, rfl⟩
  case feed => exact .inr ⟨rfl, rfl⟩

/-- A micro-operation changes nothing but V, H and the sequencer, and no written mark (41_quarter_round.md R63,
43_state_accumulator.md R78). -/
theorem exec_micro_frame {q : Seq} {i : Instr} {s t : State} (hq : q.micro = some i) (h : exec i s = .next t) :
    t.m = s.m ∧ t.hMark = s.hMark ∧ t.mMark = s.mMark ∧ t.vMark = s.vMark ∧ t.rsp = none := by
  obtain ⟨r, k, -, rfl⟩ | ⟨-, rfl⟩ := Seq.micro_cases hq <;> cases h <;> simp

/-! One field after an instruction. -/

theorem exec_h {i : Instr} {s t : State} (h : exec i s = .next t) :
    t.h = s.h ∨ i = .init ∨ (∃ k v, i = .ldh k v) ∨ i = .feed := by
  cases i <;> cases h
  case init => exact .inr (.inl rfl)
  case ldh k v => exact .inr (.inr (.inl ⟨k, v, rfl⟩))
  case feed => exact .inr (.inr (.inr rfl))
  all_goals exact .inl rfl

theorem exec_m {i : Instr} {s t : State} (h : exec i s = .next t) : t.m = s.m ∨ ∃ j v, i = .ldm j v := by
  cases i <;> cases h
  case ldm j v => exact .inr ⟨j, v, rfl⟩
  all_goals exact .inl rfl

theorem exec_rsp {i : Instr} {s t : State} (h : exec i s = .next t) :
    t.rsp = none ∨ ∃ k, i = .rdh k ∧ t.rsp = some s.h[k] := by
  cases i <;> cases h
  case rdh k => exact .inr ⟨k, rfl, rfl⟩
  all_goals exact .inl rfl

/-- Every word of H, M and V that is marked written in `s` is in `t`. -/
def KeepsWritten (s t : State) : Prop :=
  (∀ i : Fin 8, s.hMark[i] = true → t.hMark[i] = true) ∧ (∀ j : Fin 16, s.mMark[j] = true → t.mMark[j] = true) ∧
    ∀ k : Fin 16, s.vMark[k] = true → t.vMark[k] = true

/-- An instruction sets marks or leaves them (10_state.md R25). -/
theorem exec_keepsWritten {i : Instr} {s t : State} (h : exec i s = .next t) : KeepsWritten s t := by
  cases i <;> cases h
  case init => exact ⟨by simp, fun _ => id, fun _ => id⟩
  case ldh k v => exact ⟨fun i hi => (set_getElem_fin s.hMark k i true).trans (by simp [hi]), fun _ => id, fun _ => id⟩
  case ldm j v => exact ⟨fun _ => id, fun i hi => (set_getElem_fin s.mMark j i true).trans (by simp [hi]), fun _ => id⟩
  case comp c f => exact ⟨fun _ => id, fun _ => id, by simp⟩
  all_goals exact ⟨fun _ => id, fun _ => id, fun _ => id⟩

/-! The same after a step. -/

/-- Settles O38. Of the instructions that write H the sequencer selects only `FEED`, and a word is never `FEED`. -/
theorem hChangesOnlyByInitLdhFeedReset : Obligations.HChangesOnlyByInitLdhFeedReset := by
  intro s t h hne
  rcases step_cases h with ⟨hr, -⟩ | ⟨-, i, hmicro, hexec⟩ | ⟨-, hready, w, i, hw, hd, hexec⟩ | ⟨-, -, w, c, -, -, rfl⟩ |
    ⟨-, -, -, rfl⟩
  case inl => exact .inl hr
  case inr.inl =>
    obtain ⟨r, k, -, rfl⟩ | ⟨hfeed, -⟩ := Seq.micro_cases hmicro
    · cases hexec
      exact absurd rfl hne
    · exact .inr (.inl hfeed)
  case inr.inr.inl =>
    obtain hkept | rfl | ⟨k, v, rfl⟩ | rfl := exec_h hexec
    · exact absurd hkept hne
    · exact .inr (.inr ⟨hready, w, hw, .inl hd⟩)
    · exact .inr (.inr ⟨hready, w, hw, .inr ⟨k, v, hd⟩⟩)
    · exact absurd hd (decodeCommand_ne_feed w)
  all_goals exact absurd rfl hne

/-- Settles O40. Of the instructions only `LDM` writes M; a micro-operation does not. -/
theorem mChangesOnlyByLdmReset : Obligations.MChangesOnlyByLdmReset := by
  intro s t h hne
  rcases step_cases h with ⟨hr, -⟩ | ⟨-, i, hmicro, hexec⟩ | ⟨-, hready, w, i, hw, hd, hexec⟩ | ⟨-, -, w, c, -, -, rfl⟩ |
    ⟨-, -, -, rfl⟩
  case inl => exact .inl hr
  case inr.inl =>
    obtain ⟨hkept, -⟩ := exec_micro_frame hmicro hexec
    exact absurd hkept hne
  case inr.inr.inl =>
    obtain hkept | ⟨j, v, rfl⟩ := exec_m hexec
    · exact absurd hkept hne
    · exact .inr ⟨hready, w, j, v, hw, hd⟩
  all_goals exact absurd rfl hne

/-- Settles O39. Of the instructions only `RDH` responds; a micro-operation does not. -/
theorem onlyRdhResponds : Obligations.OnlyRdhResponds := by
  intro s t x h hx
  rcases step_cases h with ⟨-, rfl⟩ | ⟨-, i, hmicro, hexec⟩ | ⟨-, hready, w, i, hw, hd, hexec⟩ | ⟨-, -, w, c, -, -, rfl⟩ |
    ⟨-, -, -, rfl⟩
  case inr.inl =>
    obtain ⟨-, -, -, -, hnone⟩ := exec_micro_frame hmicro hexec
    simp [hnone] at hx
  case inr.inr.inl =>
    obtain hnone | ⟨k, rfl, hrsp⟩ := exec_rsp hexec
    · simp [hnone] at hx
    · have hword : s.h[k] = x := Option.some.inj (hrsp.symm.trans hx)
      exact ⟨hready, w, k, hw, hd, hword.symm⟩
  all_goals simp at hx

/-- Settles O43. Only an instruction writes a mark, and it sets it. -/
theorem onlyResetClearsAWrittenMark : Obligations.OnlyResetClearsAWrittenMark := by
  intro s t h hreset
  rcases step_cases h with ⟨hr, -⟩ | ⟨-, i, -, hexec⟩ | ⟨-, -, w, i, -, -, hexec⟩ | ⟨-, -, w, c, -, -, rfl⟩ | ⟨-, -, -, rfl⟩
  case inl => exact absurd hr hreset
  case inr.inl | inr.inr.inl =>
    have hkept := exec_keepsWritten hexec
    exact hkept
  all_goals exact ⟨fun _ => id, fun _ => id, fun _ => id⟩

/-- Settles O42. -/
theorem onlyResetClearsTheError : Obligations.OnlyResetClearsTheError :=
  fun _ _ h herr hreset =>
    have ⟨hkept, hcause⟩ := step_keeps_latch_of_err h herr hreset
    ⟨hkept.trans herr, hcause⟩

end Sys2Proof.Machine
end

section
/-! PROOF. The invariants of the control state and of the written marks (10_state.md R15, R25, R27, 60_exceptions.md R97). -/

namespace Sys2Proof.Machine

open Sys2Proof.Safety Sys2Proof.Claims

/-! The written marks depend on the marks alone. -/

theorem allH_congr {s t : State} (h : s.hMark = t.hMark) : allH s = allH t := by
  simp [allH, h]

theorem allM_congr {s t : State} (h : s.mMark = t.mMark) : allM s = allM t := by
  simp [allM, h]

theorem allV_congr {s t : State} (h : s.vMark = t.vMark) : allV s = allV t := by
  simp [allV, h]

theorem seq_ne_idle_of_micro {s : State} {i : Instr} (h : s.seq.micro = some i) : s.seq ≠ .idle := by
  intro hidle
  simp [hidle, Seq.micro] at h

/-- The acceptance of `COMP` marks all of V, starts the sequencer and keeps the marks of H and M (40_compress.md R55). -/
theorem exec_comp_frame {c : Word} {f : Bool} {s t : State} (h : exec (.comp c f) s = .next t) :
    allV t = true ∧ t.hMark = s.hMark ∧ t.mMark = s.mMark ∧ t.seq = .mix 0 0 := by
  cases h
  exact ⟨(allV_iff _).2 (by simp), rfl, rfl, rfl⟩

/-- A step that answers a running sequencer is the acceptance of a `COMP` or a micro-operation. -/
theorem step_to_running {s t : State} (h : step s = .next t) (hrun : t.seq ≠ .idle) :
    (ready s = true ∧ ∃ c f, select s = .accept (.comp c f) ∧ exec (.comp c f) s.advanceHost.takeCommand = .next t) ∨
    ∃ i, s.seq.micro = some i ∧ exec i s.advanceHost = .next t := by
  rcases select_cases s with ⟨-, hsel⟩ | ⟨-, i, hmicro, hsel⟩ | ⟨-, hready, w, i, -, hd, hsel⟩ |
    ⟨-, hready, w, c, -, -, hsel⟩ | ⟨-, hidle, -, hsel⟩
  case inl =>
    rw [step_of_reset hsel] at h
    cases h
    simp at hrun
  case inr.inl =>
    rw [step_of_micro hsel] at h
    exact .inr ⟨i, hmicro, h⟩
  case inr.inr.inl =>
    rw [step_of_accept hsel] at h
    obtain hkept | ⟨-, c, f, rfl⟩ := exec_command_seq hd h
    · exact absurd (hkept.trans ((ready_iff s).1 hready).1) hrun
    · exact .inl ⟨hready, c, f, hsel, h⟩
  case inr.inr.inr.inl =>
    rw [step_of_illegal hsel] at h
    cases h
    exact absurd ((ready_iff s).1 hready).1 hrun
  case inr.inr.inr.inr =>
    rw [step_of_nothing hsel] at h
    cases h
    exact absurd hidle hrun

/-! The control invariant. -/

/-- A step leaves the latch, clears it (a reset step) or sets it (an illegal word) on an idle core. -/
theorem step_latch_cases {s t : State} (h : step s = .next t) :
    SameLatch s t ∨ (t.err = false ∧ t.cause = none) ∨ (t.err = true ∧ t.cause ≠ none ∧ t.seq = .idle) := by
  rcases step_cases h with ⟨-, rfl⟩ | ⟨-, i, -, hexec⟩ | ⟨-, -, w, i, -, -, hexec⟩ | ⟨-, hready, w, c, -, -, rfl⟩ |
    ⟨-, -, -, rfl⟩
  case inl => exact .inr (.inl ⟨rfl, rfl⟩)
  case inr.inl | inr.inr.inl =>
    obtain ⟨herr, hcause, -⟩ := exec_keeps_latch_and_stream hexec
    exact .inl ⟨herr, hcause⟩
  case inr.inr.inr.inl => exact .inr (.inr ⟨rfl, by simp, ((ready_iff s).1 hready).1⟩)
  case inr.inr.inr.inr => exact .inl ⟨rfl, rfl⟩

/-- A locked-out core accepts no `COMP`, so its sequencer stays IDLE (60_exceptions.md R97). -/
theorem seq_idle_of_step_of_err {s t : State} (h : step s = .next t) (herr : s.err = true) (hidle : s.seq = .idle) :
    t.seq = .idle := by
  by_contra hrun
  obtain ⟨hready, -⟩ | ⟨i, hmicro, -⟩ := step_to_running h hrun
  · simp [ready_of_err herr] at hready
  · exact seq_ne_idle_of_micro hmicro hidle

/-- A step keeps that all of V is written while the sequencer runs: the acceptance of `COMP` marks V, and a micro-operation
leaves the marks. -/
theorem step_allV_of_running {s t : State} (h : step s = .next t) (hinv : s.seq ≠ .idle → allV s = true)
    (hrun : t.seq ≠ .idle) : allV t = true := by
  obtain ⟨-, c, f, -, hexec⟩ | ⟨i, hmicro, hexec⟩ := step_to_running h hrun
  · obtain ⟨hall, -⟩ := exec_comp_frame hexec
    exact hall
  · obtain ⟨-, -, -, hmark, -⟩ := exec_micro_frame hmicro hexec
    rw [allV_congr hmark]
    exact hinv (seq_ne_idle_of_micro hmicro)

/-- Settles O33, clause by clause: the latch as a pair, the idle sequencer of a locked-out core, the marks of V. -/
theorem everyStepKeepsTheControlInvariant : Obligations.EveryStepKeepsTheControlInvariant := by
  intro s t ⟨hlatch, hidle, hmarks⟩ h
  refine ⟨?latch, ?idle, step_allV_of_running h hmarks⟩
  case latch =>
    obtain ⟨herr, hcause⟩ | ⟨herr, hcause⟩ | ⟨herr, hcause, -⟩ := step_latch_cases h
    · rwa [herr, hcause]
    · simp [herr, hcause]
    · simp [herr, hcause]
  case idle =>
    intro herr
    obtain ⟨hsame, -⟩ | ⟨hclear, -⟩ | ⟨-, -, hseq⟩ := step_latch_cases h
    · have hset : s.err = true := hsame.symm.trans herr
      exact seq_idle_of_step_of_err h hset (hidle hset)
    · simp [hclear] at herr
    · exact hseq

/-- Settles O34. There is no error and the sequencer is IDLE. -/
theorem controlInvariantAtReset : Obligations.ControlInvariantAtReset := by
  refine ⟨?latch, ?idle, ?marks⟩
  case latch => simp
  case idle => exact fun _ => State.reset_seq
  case marks => exact fun hrun => absurd State.reset_seq hrun

/-! The checked step, and the written invariant. -/

theorem checkedStep_of_micro {s : State} {i : Instr} (h : select s = .micro i) :
    checkedStep s = if readsUnwritten i s = true then .refused .unwrittenRead else step s := by
  simp only [checkedStep, h]

theorem checkedStep_of_accept {s : State} {i : Instr} (h : select s = .accept i) :
    checkedStep s = if readsUnwritten i s = true then .refused .unwrittenRead else step s := by
  simp only [checkedStep, h]

theorem checkedStep_of_nothing {s : State} (h : select s = .nothing) : checkedStep s = step s := by
  simp only [checkedStep, h]

/-- A checked step that answers a next state is the machine's step. -/
theorem step_of_checkedStep {s t : State} (h : checkedStep s = .next t) : step s = .next t := by
  rcases checkedStep_cases s with ⟨-, hc⟩ | ⟨i, -, hc⟩ | ⟨c, -, hc⟩ | ⟨-, hc⟩ <;> rw [hc] at h
  case inr.inl =>
    split at h
    · cases h
    · exact h
  case inr.inr.inl => cases h
  all_goals exact h

/-- `COMP` reads all of H and M (10_state.md R27). -/
theorem readsUnwritten_comp_eq_false_iff (c : Word) (f : Bool) (s : State) :
    readsUnwritten (.comp c f) s = false ↔ allH s = true ∧ allM s = true := by
  simp [readsUnwritten]

theorem allWritten_of_checkedStep_comp {s t : State} {c : Word} {f : Bool} (hsel : select s = .accept (.comp c f))
    (h : checkedStep s = .next t) : allH s = true ∧ allM s = true := by
  rw [checkedStep_of_accept hsel] at h
  split at h
  case isTrue => cases h
  case isFalse hread => exact (readsUnwritten_comp_eq_false_iff c f s).1 (Bool.eq_false_iff.2 hread)

/-- Settles O35. A `COMP` that is not refused finds all of H and M written and marks V; a micro-operation leaves the marks. -/
theorem everyCheckedStepKeepsTheWrittenInvariant : Obligations.EveryCheckedStepKeepsTheWrittenInvariant := by
  intro s t hinv h hrun
  obtain ⟨-, c, f, hsel, hexec⟩ | ⟨i, hmicro, hexec⟩ := step_to_running (step_of_checkedStep h) hrun
  · obtain ⟨hV, hmarkH, hmarkM, -⟩ := exec_comp_frame hexec
    obtain ⟨hH, hM⟩ := allWritten_of_checkedStep_comp hsel h
    exact ⟨(allH_congr hmarkH).trans hH, (allM_congr hmarkM).trans hM, hV⟩
  · obtain ⟨-, hmarkH, hmarkM, hmarkV, -⟩ := exec_micro_frame hmicro hexec
    obtain ⟨hH, hM, hV⟩ := hinv (seq_ne_idle_of_micro hmicro)
    exact ⟨(allH_congr hmarkH).trans hH, (allM_congr hmarkM).trans hM, (allV_congr hmarkV).trans hV⟩

/-- Settles O36. The sequencer is IDLE. -/
theorem writtenInvariantAtReset : Obligations.WrittenInvariantAtReset :=
  fun hrun => absurd State.reset_seq hrun

end Sys2Proof.Machine
end

section
/-! PROOF. The step around the instruction it runs (30_encoding.md R40), the status word (10_state.md R15), and the commands
`COMP` (40_compress.md R55) and `RDH` (43_state_accumulator.md R76). -/

namespace Sys2Proof

theorem decodeCommand_formatC_badField {w : CmdWord} (hop : w.extractLsb' 36 4 = 4#4) (hne : w.extractLsb' 33 3 ≠ 0#3) :
    decodeCommand w = .illegal .badField := by
  have hslice : (CmdFields.ofWord w).idx.extractLsb' 1 3 = w.extractLsb' 33 3 := by
    ext i hi
    have hlow : 1 + i < 4 := by omega
    simp [CmdFields.ofWord, hlow, ← Nat.add_assoc]
  apply decodeCommand_badField (k := .C) (by rw [hop]; rfl)
  rw [Bool.eq_false_iff, ne_eq, mbzHolds_formatC_iff, hslice]
  exact hne

theorem decodeCommand_formatQ_badField {w : CmdWord} (hop : w.extractLsb' 36 4 = 5#4)
    (hne : w.getLsbD 35 = true ∨ w.extractLsb' 0 32 ≠ 0#32) : decodeCommand w = .illegal .badField := by
  apply decodeCommand_badField (k := .Q) (by rw [hop]; rfl)
  rcases hne with hbit | hdata
  · simp [Format.mbzHolds, ofWord_idx_getLsbD_three, hbit]
  · simp [Format.mbzHolds, CmdFields.ofWord, hdata]

/-- The `idx` field of format C, `{000, f}` in the spec's writing, is the flag in four bits (30_encoding.md R44). -/
theorem finalFlag_word_eq_toWord (t : Word) (f : Bool) :
    (4#4 ++ 0#3 ++ BitVec.ofBool f ++ t : CmdWord) =
      CmdFields.toWord { op := 4#4, idx := (BitVec.ofBool f).zeroExtend 4, data := t } := by
  cases f <;> rfl

end Sys2Proof

namespace Sys2Proof.Machine

open Sys2Proof.Safety Sys2Proof.Claims

/-! The step around the instruction. -/

theorem step_of_nothing_presented {s : State} (hready : ready s = true) (hreset : NoReset s) (hw : s.presented = none) :
    step s = .next s.advanceHost.noResponse := by
  apply step_of_nothing
  rw [select_idle hreset ((ready_iff s).1 hready).1, selectHost_none hw]

/-- Settles O9. -/
theorem stepRunsTheDecodedInstruction : Obligations.StepRunsTheDecodedInstruction :=
  ⟨fun _ _ _ hready hw hd => step_of_command_accepted hready hw hd,
    fun _ _ hreset hmicro => step_of_micro (select_micro hreset hmicro),
    fun _ hready hreset hw => step_of_nothing_presented hready hreset hw⟩

/-- Settles O10. -/
theorem everyStepAnswersANextState : Obligations.EveryStepAnswersANextState := step_answers

/-- A core that is not READY selects without a look at the host's stream. -/
theorem select_with_cmds {s : State} (hbusy : ready s = false) (cs : List CmdWord) :
    select { s with cmds := cs } = select s := by
  have hbusy' : ready { s with cmds := cs } = false := hbusy
  simp only [select, selectHost, hbusy, hbusy']
  rfl

/-- No instruction reads the host's stream. -/
theorem exec_with_cmds {i : Instr} {s t : State} (h : exec i s = .next t) (cs : List CmdWord) :
    exec i { s with cmds := cs } = .next { t with cmds := cs } := by
  cases i <;> cases h <;> rfl

/-- Settles O11. The core that is not READY performs a reset step, a micro-operation or nothing, none of which reads the
stream. -/
theorem heldCommandIsNotLookedAt : Obligations.HeldCommandIsNotLookedAt := by
  intro s cs hbusy hreset hact
  obtain ⟨t, ht⟩ := step_answers s
  refine ⟨t, ht, step_keeps_stream_of_not_ready ht hbusy hact, ?_⟩
  have hsel := select_with_cmds hbusy cs
  have hhost := advanceHost_with_cmds hact cs
  rcases select_cases s with ⟨hr, -⟩ | ⟨-, i, -, h⟩ | ⟨-, hready, -⟩ | ⟨-, hready, -⟩ | ⟨-, -, -, h⟩
  case inl => exact absurd hr hreset
  case inr.inl =>
    rw [step_of_micro h] at ht
    rw [step_of_micro (hsel.trans h), hhost]
    exact exec_with_cmds ht cs
  case inr.inr.inl | inr.inr.inr.inl => simp [hbusy] at hready
  case inr.inr.inr.inr =>
    rw [step_of_nothing h] at ht
    rw [step_of_nothing (hsel.trans h), hhost]
    cases ht
    rfl

/-- The code of CAUSE is never 3, and 0 stands for no cause (60_exceptions.md R91). -/
theorem causeCode_spec (c : Option IllegalCause) : causeCode c ≠ 3#2 ∧ (causeCode c = 0#2 ↔ c = none) := by
  rcases c with _ | _ | _ <;> decide

/-- The three fields of a four-bit word `{ c, e, r }`. -/
theorem status_bits (c : BitVec 2) (e r : Bool) :
    (c ++ BitVec.ofBool e ++ BitVec.ofBool r : BitVec 4).getLsbD 0 = r ∧
      (c ++ BitVec.ofBool e ++ BitVec.ofBool r : BitVec 4).getLsbD 1 = e ∧
      (c ++ BitVec.ofBool e ++ BitVec.ofBool r : BitVec 4).extractLsb' 2 2 = c := by
  revert c e r
  decide

/-- Settles O16. The status word is its three fields side by side, and READY is computed from PHASE and ERR. -/
theorem statusWordFields : Obligations.StatusWordFields := by
  intro s
  obtain ⟨hready, herr, hcause⟩ := status_bits (causeCode s.cause) s.err (ready s)
  refine ⟨?ready, herr, hcause, causeCode_spec s.cause⟩
  case ready =>
    have hbit : (statusWord s).getLsbD 0 = ready s := hready
    rw [hbit]
    simp [ready]

/-! `COMP` and `RDH`. -/

theorem acceptedAs_of_encode {i : Instr} {w : CmdWord} (h : encode i = .command w) : AcceptedAs i w :=
  acceptedAs_of_encode_of_decode h (decodeCommand_of_encode h)

theorem acceptedAs_comp (c : Word) (f : Bool) : AcceptedAs (.comp c f) (4#4 ++ 0#3 ++ BitVec.ofBool f ++ c) := by
  rw [finalFlag_word_eq_toWord]
  exact acceptedAs_of_encode rfl

theorem acceptedAs_rdh (i : Fin 8) : AcceptedAs (.rdh i) (5#4 ++ 0#1 ++ BitVec.ofNat 3 i.val ++ 0#32) := by
  rw [hIndex_word_eq_toWord]
  exact acceptedAs_of_encode rfl

/-- The words of the set-up above H: IV, the counter in word 12, the final flag in word 14 (40_compress.md R55). -/
theorem setup_high (h : Vector Word 8) (t : Word) (f : Bool) :
    (setup h t f)[8] = 0x6A09E667#32 ∧ (setup h t f)[9] = 0xBB67AE85#32 ∧ (setup h t f)[10] = 0x3C6EF372#32 ∧
      (setup h t f)[11] = 0xA54FF53A#32 ∧ (setup h t f)[12] = 0x510E527F#32 ^^^ t ∧ (setup h t f)[13] = 0x9B05688C#32 ∧
      (setup h t f)[14] = (if f then 0xE07C2654#32 else 0x1F83D9AB#32) ∧ (setup h t f)[15] = 0x5BE0CD19#32 := by
  cases f <;> simp [setup, iv, xor32, not32]

/-- Settles O5. The state answered is `loadV` of the set-up, known word by word, with the sequencer at its first value. -/
theorem compSetsUpTheWorkingVector : Obligations.CompSetsUpTheWorkingVector := by
  refine ⟨acceptedAs_comp, fun _ hop hne => decodeCommand_formatC_badField hop hne, fun c f s => ?_⟩
  obtain ⟨h8, h9, h10, h11, h12, h13, h14, h15⟩ := setup_high s.h c f
  refine ⟨_, exec_comp c f s, setup_low s.h c f, h8, h9, h10, h11, h12, h13, h14, h15, ?marks, rfl, ?busy, rfl, ?frame⟩
  case marks => simp
  case busy => exact ready_of_seq_ne_idle (by simp)
  case frame => simp [SameH, SameM, SameLatch, SameStream]

/-- Settles O6. -/
theorem rdhReadsOneHashWord : Obligations.RdhReadsOneHashWord := by
  refine ⟨acceptedAs_rdh, fun _ hop hne => decodeCommand_formatQ_badField hop hne,
    fun i s => ⟨_, exec_rdh i s, rfl, ?frame⟩⟩
  case frame => simp [SameH, SameM, SameV, SameLatch, SameStream]

end Sys2Proof.Machine
end

section
/-! PROOF. The quarter-round (41_quarter_round.md R61): the in-place sequence of assignments, its inverse, and the independence of
the groups of one half-round (42_round_scheduler.md R68). -/

namespace Sys2Proof.Machine

open Sys2Proof.Claims

/-! The two halves of a quarter-round. -/

/-- The first or the last four lines of the quarter-round, which differ in the message word and the rotation amounts alone. -/
def halfQuarter (a b c d m : Word) (n n' : Nat) : Quad :=
  let a' := add32 (add32 a b) m
  let d' := ror32 (xor32 d a') n
  let c' := add32 c d'
  { a := a', b := ror32 (xor32 b c') n', c := c', d := d' }

theorem quarter_eq_halves (a b c d mx my : Word) :
    quarter a b c d mx my =
      let q := halfQuarter a b c d mx 16 12
      halfQuarter q.a q.b q.c q.d my 8 7 := rfl

/-! In place. -/

/-- The four words of a quarter-round written back at the indices of its group (42_round_scheduler.md R68). -/
def writeQuad (v : Vector Word 16) (o : Sched) (q : Quad) : Vector Word 16 :=
  (((v.set o.a q.a).set o.b q.b).set o.c q.c).set o.d q.d

theorem gstep_eq_writeQuad (v m : Vector Word 16) (r : Fin 10) (s : Fin 8) :
    gstep v m r s = writeQuad v (sched r s) (quarterAt v m r s) := rfl

/-- Four of the eight assignments of the in-place sequence. -/
def halfInPlace (v : Vector Word 16) (o : Sched) (m : Word) (n n' : Nat) : Vector Word 16 :=
  let v := v.set o.a (v[o.a] + v[o.b] + m)
  let v := v.set o.d (ror32 (v[o.d] ^^^ v[o.a]) n)
  let v := v.set o.c (v[o.c] + v[o.d])
  v.set o.b (ror32 (v[o.b] ^^^ v[o.c]) n')

theorem mixInPlace_eq_halves (v m : Vector Word 16) (o : Sched) :
    mixInPlace v m o = halfInPlace (halfInPlace v o m[o.x] 16 12) o m[o.y] 8 7 := rfl

/-- The indices of a group in their order, so that no two are the same (10_state.md R20). -/
structure Sched.Ordered (o : Sched) : Prop where
  ab : o.a.val < o.b.val
  bc : o.b.val < o.c.val
  cd : o.c.val < o.d.val

theorem sched_ordered (r : Fin 10) (s : Fin 8) : (sched r s).Ordered := by
  obtain ⟨ha, hb, hb', hc, hc', hd⟩ := sched_ranges r s
  exact ⟨by omega, by omega, by omega⟩

section
variable {o : Sched} (ho : o.Ordered) (v : Vector Word 16)
include ho

theorem writeQuad_getElem (q : Quad) :
    (writeQuad v o q)[o.a] = q.a ∧ (writeQuad v o q)[o.b] = q.b ∧ (writeQuad v o q)[o.c] = q.c ∧
      (writeQuad v o q)[o.d] = q.d := by
  obtain ⟨hab, hbc, hcd⟩ := ho
  simp only [writeQuad, Fin.getElem_fin, Vector.getElem_set]
  grind

theorem writeQuad_writeQuad (q q' : Quad) : writeQuad (writeQuad v o q) o q' = writeQuad v o q' := by
  obtain ⟨hab, hbc, hcd⟩ := ho
  refine Vector.ext fun k hk => ?_
  simp only [writeQuad, Vector.getElem_set]
  grind

/-- Each assignment reads the last word written at its index. -/
theorem halfInPlace_eq_writeQuad (m : Word) (n n' : Nat) :
    halfInPlace v o m n n' = writeQuad v o (halfQuarter v[o.a] v[o.b] v[o.c] v[o.d] m n n') := by
  obtain ⟨hab, hbc, hcd⟩ := ho
  refine Vector.ext fun k hk => ?_
  simp only [halfInPlace, writeQuad, halfQuarter, add32, xor32, Fin.getElem_fin, Vector.getElem_set]
  grind

theorem mixInPlace_eq_writeQuad (m : Vector Word 16) :
    mixInPlace v m o = writeQuad v o (quarter v[o.a] v[o.b] v[o.c] v[o.d] m[o.x] m[o.y]) := by
  obtain ⟨ha, hb, hc, hd⟩ := writeQuad_getElem ho v (halfQuarter v[o.a] v[o.b] v[o.c] v[o.d] m[o.x] 16 12)
  rw [mixInPlace_eq_halves, halfInPlace_eq_writeQuad ho, halfInPlace_eq_writeQuad ho, writeQuad_writeQuad ho, ha, hb, hc, hd,
    quarter_eq_halves]

end

/-- Settles O26, one half of the eight assignments after the other. -/
theorem quarterRoundIsTheInPlaceSequence : Obligations.QuarterRoundIsTheInPlaceSequence :=
  fun v m r s => (gstep_eq_writeQuad v m r s).trans (mixInPlace_eq_writeQuad (sched_ordered r s) v m).symm

/-! One to one. -/

theorem ror32_injective {n : Nat} (hn : n < 32) {a b : Word} (h : ror32 a n = ror32 b n) : a = b := by
  apply BitVec.eq_of_getLsbD_eq
  intro i hi
  have hback : ((i + (32 - n)) % 32 + n) % 32 = i := by omega
  have hbit : ∀ a : Word, a.getLsbD i = (ror32 a n).getLsbD ((i + (32 - n)) % 32) := fun a => by
    rw [ror32_getLsbD a hn ⟨(i + (32 - n)) % 32, Nat.mod_lt _ (by decide)⟩, hback]
  rw [hbit a, hbit b, h]

theorem add32_left_injective (m : Word) {a b : Word} (h : add32 a m = add32 b m) : a = b :=
  (BitVec.add_left_inj m).1 h

theorem xor32_left_injective (m : Word) {a b : Word} (h : xor32 a m = xor32 b m) : a = b :=
  (BitVec.xor_left_inj m).1 h

/-- Each line of a half is undone from what the later lines left: `b` and `c` from the end, then `d`, then `a`. -/
theorem halfQuarter_injective {a b c d a' b' c' d' m : Word} {n n' : Nat} (hn : n < 32) (hn' : n' < 32)
    (h : halfQuarter a b c d m n n' = halfQuarter a' b' c' d' m n n') : a = a' ∧ b = b' ∧ c = c' ∧ d = d' := by
  simp only [halfQuarter, Quad.mk.injEq] at h
  obtain ⟨ha, hb, hc, hd⟩ := h
  rw [hc] at hb
  rw [hd] at hc
  rw [ha] at hd
  obtain rfl := xor32_left_injective _ (ror32_injective hn' hb)
  obtain rfl := add32_left_injective _ hc
  obtain rfl := xor32_left_injective _ (ror32_injective hn hd)
  obtain rfl := add32_left_injective _ (add32_left_injective _ ha)
  exact ⟨rfl, rfl, rfl, rfl⟩

/-- Settles O27, one half after the other. -/
theorem quarterRoundIsOneToOne : Obligations.QuarterRoundIsOneToOne := by
  intro a b c d a' b' c' d' mx my h
  rw [quarter_eq_halves, quarter_eq_halves] at h
  obtain ⟨ha, hb, hc, hd⟩ := halfQuarter_injective (by decide) (by decide) h
  exact halfQuarter_injective (n := 16) (n' := 12) (by decide) (by decide) ((Quad.mk.injEq ..).mpr ⟨ha, hb, hc, hd⟩)

/-! Independence. -/

/-- The four indices of the group of a step (10_state.md R20). -/
def groupOf (s : Fin 8) : List (Fin 16) := [qr[s].a, qr[s].b, qr[s].c, qr[s].d]

/-- The groups of two steps of one half-round have no index in common (R20). -/
theorem not_mem_groupOf_of_same_half {s s' : Fin 8} (hhalf : s.val < 4 ↔ s'.val < 4) (hne : s ≠ s') {k : Fin 16}
    (h : k ∈ groupOf s) : k ∉ groupOf s' := by
  revert s s' k
  decide

theorem gstep_of_not_mem (v m : Vector Word 16) (r : Fin 10) {s : Fin 8} {k : Fin 16} (h : k ∉ groupOf s) :
    (gstep v m r s)[k] = v[k] := by
  simp only [groupOf, List.mem_cons, List.not_mem_nil, or_false, not_or] at h
  obtain ⟨ha, hb, hc, hd⟩ := h
  exact gstep_other v m r s k ha hb hc hd

/-- A quarter-round reads V at the indices of its group only. -/
theorem quarterAt_congr {v v' : Vector Word 16} (m : Vector Word 16) (r : Fin 10) {s : Fin 8}
    (h : ∀ k ∈ groupOf s, v[k] = v'[k]) : quarterAt v m r s = quarterAt v' m r s := by
  simp only [groupOf, List.forall_mem_cons, List.not_mem_nil] at h
  obtain ⟨ha, hb, hc, hd, -⟩ := h
  simp only [quarterAt, sched, ha, hb, hc, hd]

theorem gstep_congr_of_mem {v v' : Vector Word 16} (m : Vector Word 16) (r : Fin 10) {s : Fin 8}
    (h : ∀ k ∈ groupOf s, v[k] = v'[k]) {k : Fin 16} (hk : k ∈ groupOf s) :
    (gstep v m r s)[k] = (gstep v' m r s)[k] := by
  have hq := quarterAt_congr m r h
  simp only [groupOf, List.mem_cons, List.not_mem_nil, or_false] at hk
  rcases hk with rfl | rfl | rfl | rfl
  · exact (gstep_a v m r s).trans (hq ▸ (gstep_a v' m r s).symm)
  · exact (gstep_b v m r s).trans (hq ▸ (gstep_b v' m r s).symm)
  · exact (gstep_c v m r s).trans (hq ▸ (gstep_c v' m r s).symm)
  · exact (gstep_d v m r s).trans (hq ▸ (gstep_d v' m r s).symm)

/-- On its own group a quarter-round does the same before and after one that is independent of it. -/
theorem gstep_gstep_of_mem (v m : Vector Word 16) (r : Fin 10) {s s' : Fin 8} (hhalf : s.val < 4 ↔ s'.val < 4)
    (hne : s ≠ s') {k : Fin 16} (hk : k ∈ groupOf s) :
    (gstep (gstep v m r s) m r s')[k] = (gstep (gstep v m r s') m r s)[k] := by
  have hother : ∀ j ∈ groupOf s, (gstep v m r s')[j] = v[j] := fun j hj =>
    gstep_of_not_mem v m r (not_mem_groupOf_of_same_half hhalf hne hj)
  calc (gstep (gstep v m r s) m r s')[k]
      = (gstep v m r s)[k] := gstep_of_not_mem _ m r (not_mem_groupOf_of_same_half hhalf hne hk)
    _ = (gstep (gstep v m r s') m r s)[k] := (gstep_congr_of_mem m r hother hk).symm

/-- Settles O28, word by word: a word of either group, or of none. -/
theorem halfRoundStepsCommute : Obligations.HalfRoundStepsCommute := by
  intro v m r s s' hhalf
  by_cases hne : s = s'
  · rw [hne]
  · refine Vector.ext fun k hk => ?_
    by_cases hs : ⟨k, hk⟩ ∈ groupOf s
    · exact gstep_gstep_of_mem v m r hhalf hne hs
    by_cases hs' : ⟨k, hk⟩ ∈ groupOf s'
    · exact (gstep_gstep_of_mem v m r hhalf.symm (Ne.symm hne) hs').symm
    · calc (gstep (gstep v m r s) m r s')[k]
          = (gstep v m r s)[k] := gstep_of_not_mem _ m r hs'
        _ = v[k] := gstep_of_not_mem v m r hs
        _ = (gstep v m r s')[k] := (gstep_of_not_mem v m r hs').symm
        _ = (gstep (gstep v m r s') m r s)[k] := (gstep_of_not_mem _ m r hs).symm

end Sys2Proof.Machine
end

section
/-! PROOF. The reads of unwritten words (10_state.md R27): the mark they leave, the step and the run they refuse, and that neither
the mark nor the V of an idle core is read by anything (10_state.md section 6, log 2). -/

namespace Sys2Proof.Machine

open Sys2Proof.Safety Sys2Proof.Claims

/-! Which reads are of unwritten words. -/

theorem allH_eq_false_iff (s : State) : allH s = false ↔ ∃ i : Fin 8, s.hMark[i] = false := by simp [allH]

theorem allM_eq_false_iff (s : State) : allM s = false ↔ ∃ j : Fin 16, s.mMark[j] = false := by simp [allM]

theorem allV_eq_false_iff (s : State) : allV s = false ↔ ∃ k : Fin 16, s.vMark[k] = false := by simp [allV]

theorem readsUnwritten_comp_iff (c : Word) (f : Bool) (s : State) :
    readsUnwritten (.comp c f) s = true ↔ (∃ i : Fin 8, s.hMark[i] = false) ∨ ∃ j : Fin 16, s.mMark[j] = false := by
  simp [readsUnwritten, allH_eq_false_iff, allM_eq_false_iff]

theorem readsUnwritten_rdh_iff (i : Fin 8) (s : State) : readsUnwritten (.rdh i) s = true ↔ s.hMark[i] = false := by
  simp [readsUnwritten]

theorem readsUnwritten_g_iff (r : Fin 10) (k : Fin 8) (s : State) :
    readsUnwritten (.g r k) s = true ↔
      s.vMark[(sched r k).a] = false ∨ s.vMark[(sched r k).b] = false ∨ s.vMark[(sched r k).c] = false ∨
        s.vMark[(sched r k).d] = false ∨ s.mMark[(sched r k).x] = false ∨ s.mMark[(sched r k).y] = false := by
  simp only [readsUnwritten, allScheduled, Bool.not_and, Bool.or_eq_true, Bool.not_eq_true', or_assoc]

theorem readsUnwritten_feed_iff (s : State) :
    readsUnwritten .feed s = true ↔ (∃ i : Fin 8, s.hMark[i] = false) ∨ ∃ k : Fin 16, s.vMark[k] = false := by
  simp [readsUnwritten, allH_eq_false_iff, allV_eq_false_iff]

theorem exec_refused_iff {i : Instr} {s t : State} (h : exec i s = .next t) :
    t.refused = true ↔ s.refused = true ∨ readsUnwritten i s = true := by
  rw [exec_refused h, Bool.or_eq_true]

/-- Settles O50. An instruction adds to the mark what its reads say; the first four read nothing. -/
theorem runIsMarkedExactlyByUnwrittenReads : Obligations.RunIsMarkedExactlyByUnwrittenReads := by
  refine ⟨fun s t i hi h => ?reads_nothing,
    fun s t c f h => by rw [exec_refused_iff h, readsUnwritten_comp_iff],
    fun s t i h => by rw [exec_refused_iff h, readsUnwritten_rdh_iff],
    fun s t r k h => by rw [exec_refused_iff h, readsUnwritten_g_iff],
    fun s t h => by rw [exec_refused_iff h, readsUnwritten_feed_iff]⟩
  case reads_nothing =>
    rcases hi with rfl | rfl | ⟨k, v, rfl⟩ | ⟨j, v, rfl⟩ <;> cases h <;> rfl

/-! The refused step. -/

theorem readsUnwritten_advanceHost (i : Instr) (s : State) : readsUnwritten i s.advanceHost = readsUnwritten i s :=
  readsUnwritten_congr i rfl rfl rfl

theorem readsUnwritten_takeCommand (i : Instr) (s : State) :
    readsUnwritten i s.advanceHost.takeCommand = readsUnwritten i s :=
  readsUnwritten_congr i rfl rfl rfl

theorem checkedStep_refused_iff_of_select {s : State} {i : Instr} (h : select s = .micro i ∨ select s = .accept i) :
    checkedStep s = .refused .unwrittenRead ↔ readsUnwritten i s = true := by
  obtain ⟨t, ht⟩ := step_answers s
  have hc : checkedStep s = if readsUnwritten i s = true then .refused .unwrittenRead else step s :=
    h.elim checkedStep_of_micro checkedStep_of_accept
  rw [hc, ht]
  split <;> simp [*]

/-- A checked step is the machine's step, a refusal or a fault. -/
theorem checkedStep_eq_step_or (s : State) :
    checkedStep s = step s ∨ checkedStep s = .refused .unwrittenRead ∨ ∃ c, checkedStep s = .fault (.illegalCommand c) := by
  rcases checkedStep_cases s with ⟨-, hc⟩ | ⟨i, -, hc⟩ | ⟨c, -, hc⟩ | ⟨-, hc⟩
  case inl => exact .inl hc
  case inr.inl =>
    rw [hc]
    split
    · exact .inr (.inl rfl)
    · exact .inl rfl
  case inr.inr.inl => exact .inr (.inr ⟨c, hc⟩)
  case inr.inr.inr => exact .inl hc

theorem eq_unwrittenRead_of_checkedStep {s : State} {r : Refusal} (h : checkedStep s = .refused r) :
    r = .unwrittenRead := by
  obtain ⟨t, ht⟩ := step_answers s
  obtain hc | hc | ⟨c, hc⟩ := checkedStep_eq_step_or s
  · rw [hc, ht] at h
    cases h
  · rw [hc] at h
    cases h
    rfl
  · rw [hc] at h
    cases h

/-- A step marks the run refused exactly where the checked step is refused, and never takes the mark back (log 2). -/
theorem step_refused_iff {s t : State} (h : step s = .next t) :
    t.refused = true ↔ s.refused = true ∨ checkedStep s = .refused .unwrittenRead := by
  cases hsel : select s with
  | reset =>
    rw [checkedStep_of_reset hsel, h]
    rw [step_of_reset hsel] at h
    cases h
    simp
  | micro i =>
    rw [step_of_micro hsel] at h
    rw [checkedStep_refused_iff_of_select (.inl hsel), exec_refused_iff h, readsUnwritten_advanceHost]
    rfl
  | accept i =>
    rw [step_of_accept hsel] at h
    rw [checkedStep_refused_iff_of_select (.inr hsel), exec_refused_iff h, readsUnwritten_takeCommand]
    rfl
  | illegal c =>
    rw [checkedStep_of_illegal hsel]
    rw [step_of_illegal hsel] at h
    cases h
    simp
  | nothing =>
    rw [checkedStep_of_nothing hsel, h]
    rw [step_of_nothing hsel] at h
    cases h
    simp

theorem select_accept_of_presented {s : State} {w : CmdWord} {i : Instr} (hready : ready s = true)
    (hw : s.presented = some w) (hd : decodeCommand w = .command i) : select s = .accept i := by
  rw [select_idle (currentAct_ne_reset_of_presented hw) ((ready_iff s).1 hready).1, selectHost_ready hready hw, selectWord,
    hd]

/-- With all of H, M and V written no micro-operation reads an unwritten word. -/
theorem readsUnwritten_micro_eq_false {s : State} {q : Seq} {i : Instr} (h : q.micro = some i) (hH : allH s = true)
    (hM : allM s = true) (hV : allV s = true) : readsUnwritten i s = false := by
  rw [allM_iff] at hM
  obtain ⟨r, k, -, rfl⟩ | ⟨-, rfl⟩ := Seq.micro_cases h
  · rw [allV_iff] at hV
    simp only [readsUnwritten, Bool.not_eq_false', allScheduled_iff]
    exact ⟨hV _, hV _, hV _, hV _, hM _, hM _⟩
  · simp [readsUnwritten, hH, hV]

/-- Of the commands only `COMP` and `RDH` read a register. -/
theorem comp_or_rdh_of_readsUnwritten {w : CmdWord} {i : Instr} {s : State} (hd : decodeCommand w = .command i)
    (h : readsUnwritten i s = true) : (∃ c f, i = .comp c f) ∨ ∃ k, i = .rdh k := by
  cases i
  case comp c f => exact .inl ⟨c, f, rfl⟩
  case rdh k => exact .inr ⟨k, rfl⟩
  case g r k => exact absurd hd (decodeCommand_ne_g w r k)
  case feed => exact absurd hd (decodeCommand_ne_feed w)
  all_goals cases h

/-- Settles O37. What is refused is a micro-operation or a command that reads an unwritten word: the invariant rules the first
out, and of the commands only two read. -/
theorem unwrittenReadsAreRefused : Obligations.UnwrittenReadsAreRefused := by
  refine ⟨fun s w c f hready hw hd => ?comp, fun s w i hready hw hd => ?rdh, fun s r hinv h => ?only,
    fun _ _ h => step_of_checkedStep h, fun s t h hmark => by simp [step_refused_iff h, hmark]⟩
  case comp =>
    rw [checkedStep_refused_iff_of_select (.inr (select_accept_of_presented hready hw hd)), readsUnwritten_comp_iff]
  case rdh =>
    rw [checkedStep_refused_iff_of_select (.inr (select_accept_of_presented hready hw hd)), readsUnwritten_rdh_iff]
  case only =>
    obtain rfl := eq_unwrittenRead_of_checkedStep h
    refine ⟨rfl, ?_⟩
    rcases select_cases s with ⟨-, hsel⟩ | ⟨-, i, hmicro, hsel⟩ | ⟨-, hready, w, i, hw, hd, hsel⟩ | ⟨-, -, w, c, -, -, hsel⟩ |
      ⟨-, -, -, hsel⟩
    case inl =>
      rw [checkedStep_of_reset hsel, step_of_reset hsel] at h
      cases h
    case inr.inl =>
      obtain ⟨hH, hM, hV⟩ := hinv (seq_ne_idle_of_micro hmicro)
      rw [checkedStep_refused_iff_of_select (.inl hsel), readsUnwritten_micro_eq_false hmicro hH hM hV] at h
      cases h
    case inr.inr.inl =>
      rw [checkedStep_refused_iff_of_select (.inr hsel)] at h
      refine ⟨hready, w, hw, ?_⟩
      obtain ⟨c, f, rfl⟩ | ⟨k, rfl⟩ := comp_or_rdh_of_readsUnwritten hd h
      · exact .inl ⟨c, f, hd⟩
      · exact .inr ⟨k, hd⟩
    case inr.inr.inr.inl =>
      rw [checkedStep_of_illegal hsel] at h
      cases h
    case inr.inr.inr.inr =>
      rw [checkedStep_of_nothing hsel, step_of_nothing hsel] at h
      cases h

/-! The refused run. -/

theorem run_answers (n : Nat) (s : State) : ∃ t, core.run n s = .next t := by
  induction n generalizing s with
  | zero => exact ⟨s, rfl⟩
  | succ n ih =>
    obtain ⟨u, hu⟩ := step_answers s
    rw [run_succ n hu]
    exact ih u

theorem run_keeps_refused {n : Nat} {s t : State} (h : core.run n s = .next t) (hmark : s.refused = true) :
    t.refused = true := by
  induction n generalizing s with
  | zero =>
    cases h
    exact hmark
  | succ n ih =>
    obtain ⟨u, hu⟩ := step_answers s
    rw [run_succ n hu] at h
    exact ih h ((step_refused_iff hu).2 (.inl hmark))

theorem checkedRun_refused {n : Nat} {s : State} {r : Refusal} (h : checkedRun n s = .refused r) :
    r = .unwrittenRead ∧ ∀ m : Nat, n ≤ m →
      checkedRun m s = .refused r ∧ ∃ t : State, core.run m s = .next t ∧ t.refused = true := by
  induction n generalizing s with
  | zero => cases h
  | succ n ih =>
    obtain ⟨u, hu⟩ := step_answers s
    obtain hc | hc | ⟨c, hc⟩ := checkedStep_eq_step_or s
    · rw [checkedRun_succ n (hc.trans hu)] at h
      obtain ⟨hr, hlater⟩ := ih h
      refine ⟨hr, fun m hm => ?_⟩
      obtain ⟨m, rfl⟩ : ∃ m', m = m' + 1 := ⟨m - 1, by omega⟩
      rw [checkedRun_succ m (hc.trans hu), run_succ m hu]
      exact hlater m (by omega)
    · rw [checkedRun_of_refused n hc] at h
      cases h
      refine ⟨rfl, fun m hm => ?_⟩
      obtain ⟨m, rfl⟩ : ∃ m', m = m' + 1 := ⟨m - 1, by omega⟩
      obtain ⟨t, ht⟩ := run_answers m u
      exact ⟨checkedRun_of_refused m hc, t, (run_succ m hu).trans ht,
        run_keeps_refused ht ((step_refused_iff hu).2 (.inr hc))⟩
    · rw [checkedRun_of_fault n hc] at h
      cases h

theorem run_of_checkedRun {n : Nat} {s t : State} (h : checkedRun n s = .next t) :
    core.run n s = .next t ∧ t.refused = s.refused := by
  induction n generalizing s with
  | zero =>
    cases h
    exact ⟨rfl, rfl⟩
  | succ n ih =>
    obtain ⟨u, hu⟩ := step_answers s
    obtain hc | hc | ⟨c, hc⟩ := checkedStep_eq_step_or s
    · rw [checkedRun_succ n (hc.trans hu)] at h
      obtain ⟨hrun, hmark⟩ := ih h
      have hstep : u.refused = s.refused := Bool.eq_iff_iff.2 (by simp [step_refused_iff hu, hc, hu])
      exact ⟨(run_succ n hu).trans hrun, hmark.trans hstep⟩
    · rw [checkedRun_of_refused n hc] at h
      cases h
    · rw [checkedRun_of_fault n hc] at h
      cases h

/-- A run that gets the mark has a checked run that ended in a step of it: the one that marks, or an illegal word before. -/
theorem checkedRun_of_run_marked {n : Nat} {s t : State} (h : core.run n s = .next t) (hclear : s.refused = false)
    (hmark : t.refused = true) :
    checkedRun n s = .refused .unwrittenRead ∨ ∃ c, checkedRun n s = .fault (.illegalCommand c) := by
  cases hc : checkedRun n s with
  | next u =>
    obtain ⟨hrun, hsame⟩ := run_of_checkedRun hc
    obtain rfl : t = u := Host.Outcome.next.inj (h.symm.trans hrun)
    simp [hsame, hclear] at hmark
  | refused r => exact .inl (congrArg _ (checkedRun_refused hc).1)
  | fault c => exact .inr (by cases c; exact ⟨_, rfl⟩)

/-- Settles O51, by induction on the length of the run: each step is the machine's, a refusal or a fault. -/
theorem wholeRunIsRefused : Obligations.WholeRunIsRefused :=
  ⟨rfl, fun _ _ h hmark => (step_refused_iff h).2 (.inl hmark), fun _ _ _ h => checkedRun_refused h,
    fun _ _ _ h => run_of_checkedRun h, fun _ _ _ h hclear hmark => checkedRun_of_run_marked h hclear hmark⟩

/-! What nothing reads. -/

theorem exec_with_refused {i : Instr} {s t : State} (h : exec i s = .next t) (b : Bool) :
    ∃ b', exec i { s with refused := b } = .next { t with refused := b' } := by
  cases i <;> cases h <;> exact ⟨_, rfl⟩

/-- Settles O52. What is selected does not depend on the mark, and each instruction only adds to it. -/
theorem refusedMarkInfluencesNothing : Obligations.RefusedMarkInfluencesNothing := by
  intro s t b h
  suffices hstep : ∃ b', step { s with refused := b } = .next { t with refused := b' } from
    hstep.imp fun b' hb' => ⟨hb', rfl⟩
  have hsame : select { s with refused := b } = select s := rfl
  cases hsel : select s with
  | reset =>
    rw [step_of_reset hsel] at h
    cases h
    exact ⟨b, step_of_reset (hsame.trans hsel)⟩
  | micro i =>
    rw [step_of_micro hsel] at h
    rw [step_of_micro (hsame.trans hsel)]
    exact exec_with_refused h b
  | accept i =>
    rw [step_of_accept hsel] at h
    rw [step_of_accept (hsame.trans hsel)]
    exact exec_with_refused h b
  | illegal c =>
    rw [step_of_illegal hsel] at h
    cases h
    exact ⟨b, step_of_illegal (hsame.trans hsel)⟩
  | nothing =>
    rw [step_of_nothing hsel] at h
    cases h
    exact ⟨b, step_of_nothing (hsame.trans hsel)⟩

/-- Of the commands only `COMP` has to do with V, and it writes all of it (40_compress.md R55). -/
theorem exec_command_with_v {w : CmdWord} {i : Instr} {s t : State} (hd : decodeCommand w = .command i)
    (h : exec i s = .next t) (v : Vector Word 16) (marks : Vector Bool 16) :
    exec i { s with v := v, vMark := marks } = .next t ∨
      (t.seq = s.seq ∧ exec i { s with v := v, vMark := marks } = .next { t with v := v, vMark := marks }) := by
  cases i
  case g r k => exact absurd hd (decodeCommand_ne_g w r k)
  case feed => exact absurd hd (decodeCommand_ne_feed w)
  case comp c f =>
    cases h
    exact .inl rfl
  all_goals
    cases h
    exact .inr ⟨rfl, rfl⟩

/-- Settles O41. An idle core selects no micro-operation; of what it does select, a reset step and `COMP` overwrite V and the
rest leave it. -/
theorem idleWorkingVectorIsNotObservable : Obligations.IdleWorkingVectorIsNotObservable := by
  intro s v marks hidle
  have hsame : select { s with v := v, vMark := marks } = select s := rfl
  rcases select_cases s with ⟨-, hsel⟩ | ⟨-, i, hmicro, -⟩ | ⟨-, -, w, i, -, hd, hsel⟩ | ⟨-, -, w, c, -, -, hsel⟩ |
    ⟨-, -, -, hsel⟩
  case inl => exact ⟨_, _, step_of_reset hsel, step_of_reset (hsame.trans hsel), rfl, rfl, fun _ => rfl⟩
  case inr.inl => exact absurd hidle (seq_ne_idle_of_micro hmicro)
  case inr.inr.inl =>
    obtain ⟨t, ht⟩ := exec_answers i s.advanceHost.takeCommand
    have hother := step_of_accept (hsame.trans hsel)
    refine ⟨t, ?_⟩
    obtain hexec | ⟨hseq, hexec⟩ := exec_command_with_v hd ht v marks
    · exact ⟨t, (step_of_accept hsel).trans ht, hother.trans hexec, rfl, rfl, fun _ => rfl⟩
    · exact ⟨_, (step_of_accept hsel).trans ht, hother.trans hexec, rfl, rfl, fun hrun => absurd (hseq.trans hidle) hrun⟩
  case inr.inr.inr.inl =>
    exact ⟨_, _, step_of_illegal hsel, step_of_illegal (hsame.trans hsel), rfl, rfl, fun hrun => absurd hidle hrun⟩
  case inr.inr.inr.inr =>
    exact ⟨_, _, step_of_nothing hsel, step_of_nothing (hsame.trans hsel), rfl, rfl, fun hrun => absurd hidle hrun⟩

end Sys2Proof.Machine
end

section
/-! PROOF. The run of a compression (40_compress.md section 4): 80 `G` steps and one `FEED` step after the acceptance of `COMP`, none
of them refused, that leave in H what the function computes. -/

namespace Sys2Proof.Machine

open Sys2Proof.Safety Sys2Proof.Claims

/-! The steps left (42_round_scheduler.md R73). -/

theorem stepsLeft_seqAfterMicro {q : Seq} (h : q ≠ .idle) : stepsLeft q = stepsLeft (seqAfterMicro q) + 1 := by
  cases q with
  | idle => exact absurd rfl h
  | feed => rfl
  | mix r k =>
    have hle : microsDone r k ≤ 79 := by
      unfold microsDone
      omega
    obtain hlt | hlast := hle.lt_or_eq
    · obtain ⟨r', k', hnext, hdone⟩ := nextSeq_of_microsDone_lt hlt
      simp only [seqAfterMicro, hnext, stepsLeft]
      omega
    · simp only [seqAfterMicro, nextSeq_of_microsDone_eq hlast, stepsLeft]
      omega

theorem exists_micro_of_ne_idle {q : Seq} (h : q ≠ .idle) : ∃ i, q.micro = some i := by
  cases q with
  | idle => exact absurd rfl h
  | mix r k => exact ⟨_, rfl⟩
  | feed => exact ⟨_, rfl⟩

/-- Settles O30. The step is the micro-operation, which takes the sequencer to its successor. -/
theorem everyMicroStepComesNearerTheEnd : Obligations.EveryMicroStepComesNearerTheEnd := by
  intro s t hrun hreset h
  obtain ⟨i, hmicro⟩ := exists_micro_of_ne_idle hrun
  obtain ⟨t', ht', hseq⟩ := step_micro_seq hreset hmicro
  obtain rfl : t = t' := Host.Outcome.next.inj (h.symm.trans ht')
  rw [hseq]
  exact stepsLeft_seqAfterMicro hrun

/-! The sequencer and V as a pair, and the rounds as a function of them. -/

/-- What a micro-operation does to the sequencer and V, with M at `m`. -/
def microStep (m : Vector Word 16) : Seq × Vector Word 16 → Seq × Vector Word 16
  | (.mix r k, v) => (nextSeq r k, gstep v m r k)
  | (q, v) => (seqAfterMicro q, v)

theorem microStep_fst (m : Vector Word 16) (p : Seq × Vector Word 16) : (microStep m p).1 = seqAfterMicro p.1 := by
  obtain ⟨q, v⟩ := p
  cases q <;> rfl

theorem microStep_iterate_fst (m : Vector Word 16) (n : Nat) (p : Seq × Vector Word 16) :
    ((microStep m)^[n] p).1 = seqAfterMicro^[n] p.1 :=
  Function.Semiconj.iterate_right (fun p => microStep_fst m p) n p

/-- Eight micro-operations from the start of a round are the round (42_round_scheduler.md R68). -/
theorem microStep_iterate_round (m v : Vector Word 16) (r : Fin 10) :
    (microStep m)^[8] (.mix r 0, v) = (nextSeq r 7, mixRound v m r) := rfl

/-- From the start of round `r` the rounds `r` to 9 are done one after the other. -/
theorem microStep_iterate_rounds_from (m : Vector Word 16) (n : Nat) (v : Vector Word 16) (r : Fin 10) (hr : r.val + n = 9) :
    ((microStep m)^[8])^[n + 1] (.mix r 0, v) =
      (.feed, ((List.finRange 10).drop r.val).foldl (fun v r => mixRound v m r) v) := by
  induction n generalizing v r with
  | zero =>
    obtain rfl : r = 9 := by omega
    rfl
  | succ n ih =>
    have hdrop : (List.finRange 10).drop r.val = r :: (List.finRange 10).drop (r.val + 1) := by
      rw [List.drop_eq_getElem_cons (by simp)]
      simp
    obtain ⟨r', hr'⟩ : ∃ r' : Fin 10, r'.val = r.val + 1 := ⟨⟨r.val + 1, by omega⟩, rfl⟩
    rw [Function.iterate_succ_apply, microStep_iterate_round, nextSeq_next_round hr', ih _ r' (by omega), hdrop,
      List.foldl_cons, hr']

/-- Eighty micro-operations from the first one are the ten rounds (40_compress.md R57). -/
theorem microStep_iterate_all (m v : Vector Word 16) : (microStep m)^[80] (.mix 0 0, v) = (.feed, allRounds v m) := by
  rw [show 80 = 8 * (9 + 1) by rfl, Function.iterate_mul]
  exact microStep_iterate_rounds_from m 9 v 0 rfl

/-! The machine's steps. -/

theorem checkedStep_of_micro_of_written {s : State} {i : Instr} (hreset : NoReset s) (hmicro : s.seq.micro = some i)
    (hH : allH s = true) (hM : allM s = true) (hV : allV s = true) : checkedStep s = exec i s.advanceHost := by
  have hsel := select_micro hreset hmicro
  rw [checkedStep_of_micro hsel, readsUnwritten_micro_eq_false hmicro hH hM hV, step_of_micro hsel]
  rfl

theorem checkedStep_of_command {s : State} {w : CmdWord} {i : Instr} (hready : ready s = true) (hw : s.presented = some w)
    (hd : decodeCommand w = .command i) (hread : readsUnwritten i s = false) :
    checkedStep s = exec i s.advanceHost.takeCommand := by
  rw [checkedStep_of_accept (select_accept_of_presented hready hw hd), hread, step_of_command_accepted hready hw hd]
  rfl

/-- The stream when the host only presents: from `s` to `u` one word, the accepted one, has left it. -/
def OneAccepted (s u : State) : Prop := s.acts = [] → u.acts = [] ∧ u.cmds = s.cmds.tail

theorem OneAccepted.advanceHost {s u : State} (h : OneAccepted s u) : OneAccepted s u.advanceHost := by
  intro hs
  obtain ⟨hacts, hcmds⟩ := h hs
  simp [State.currentAct, hacts, hcmds]

/-- The state `u` in the midst of the compression that `s` accepted, with the sequencer and V at `p`. -/
structure Mixing (s : State) (p : Seq × Vector Word 16) (u : State) : Prop where
  seq : u.seq = p.1
  v : u.v = p.2
  sameH : SameH s u
  sameM : SameM s u
  sameLatch : SameLatch s u
  refused : u.refused = s.refused
  allH : allH u = true
  allM : allM u = true
  allV : allV u = true
  noReset : NoResetAhead u
  stream : OneAccepted s u

/-- The state `u` at the end of the compression that `s` accepted, with H at `h`. -/
structure Compressed (s : State) (h : Vector Word 8) (u : State) : Prop where
  seq : u.seq = .idle
  h : u.h = h
  hMark : u.hMark = s.hMark
  sameM : SameM s u
  sameLatch : SameLatch s u
  rsp : u.rsp = none
  refused : u.refused = s.refused
  stream : OneAccepted s u

theorem mixing_of_comp_accepted {s : State} {w : CmdWord} {c : Word} {f : Bool} (hready : ready s = true)
    (hw : s.presented = some w) (hd : decodeCommand w = .command (.comp c f)) (hahead : NoResetAhead s)
    (hall : AllWritten s) : ∃ u, checkedStep s = .next u ∧ Mixing s (.mix 0 0, setup s.h c f) u := by
  have hH := (allH_iff s).2 hall.1
  have hM := (allM_iff s).2 hall.2
  have hread := (readsUnwritten_comp_eq_false_iff c f s).2 ⟨hH, hM⟩
  refine ⟨_, (checkedStep_of_command hready hw hd hread).trans (exec_comp c f _), ?_⟩
  exact {
    seq := rfl
    v := rfl
    sameH := by simp [SameH]
    sameM := by simp [SameM]
    sameLatch := by simp [SameLatch]
    refused := by simp [readsUnwritten_takeCommand, hread]
    allH := by simpa [Machine.allH] using hH
    allM := by simpa [Machine.allM] using hM
    allV := (allV_iff _).2 (by simp)
    noReset := by simpa [NoResetAhead] using noResetAhead_advanceHost hahead
    stream := fun hacts => by simp [State.currentAct, hacts] }

/-- A `G` step of the compression. -/
theorem Mixing.next {s u : State} {r : Fin 10} {k : Fin 8} {v : Vector Word 16} (hu : Mixing s (.mix r k, v) u) :
    ∃ u', checkedStep u = .next u' ∧ Mixing s (microStep s.m (.mix r k, v)) u' := by
  have hmicro : u.seq.micro = some (.g r k) := by rw [hu.seq]; rfl
  have hread := readsUnwritten_micro_eq_false hmicro hu.allH hu.allM hu.allV
  refine ⟨_, (checkedStep_of_micro_of_written (currentAct_ne_reset_of_noResetAhead hu.noReset) hmicro hu.allH hu.allM
    hu.allV).trans (exec_g r k _), ?_⟩
  obtain ⟨hm, -⟩ := hu.sameM
  exact {
    seq := rfl
    v := by simp [microStep, hu.v, hm]
    sameH := by simpa [SameH] using hu.sameH
    sameM := by simpa [SameM] using hu.sameM
    sameLatch := by simpa [SameLatch] using hu.sameLatch
    refused := by simp [readsUnwritten_advanceHost, hread, hu.refused]
    allH := by simpa [Machine.allH] using hu.allH
    allM := by simpa [Machine.allM] using hu.allM
    allV := by simpa [Machine.allV] using hu.allV
    noReset := by simpa [NoResetAhead] using noResetAhead_advanceHost hu.noReset
    stream := by simpa [OneAccepted] using hu.stream.advanceHost }

/-- The `FEED` step of the compression. -/
theorem Mixing.feed {s u : State} {v : Vector Word 16} (hu : Mixing s (.feed, v) u) :
    ∃ u', checkedStep u = .next u' ∧ Compressed s (feed s.h v) u' := by
  have hmicro : u.seq.micro = some .feed := by rw [hu.seq]; rfl
  have hread := readsUnwritten_micro_eq_false hmicro hu.allH hu.allM hu.allV
  refine ⟨_, (checkedStep_of_micro_of_written (currentAct_ne_reset_of_noResetAhead hu.noReset) hmicro hu.allH hu.allM
    hu.allV).trans (exec_feed _), ?_⟩
  obtain ⟨hh, hmark⟩ := hu.sameH
  exact {
    seq := rfl
    h := by simp [hu.v, hh]
    hMark := hmark
    sameM := by simpa [SameM] using hu.sameM
    sameLatch := by simpa [SameLatch] using hu.sameLatch
    rsp := rfl
    refused := by simp [readsUnwritten_advanceHost, hread, hu.refused]
    stream := by simpa [OneAccepted] using hu.stream.advanceHost }

/-! The run. -/

section
variable {s : State} {w : CmdWord} {c : Word} {f : Bool} (hready : ready s = true) (hw : s.presented = some w)
  (hd : decodeCommand w = .command (.comp c f)) (hahead : NoResetAhead s) (hall : AllWritten s)
include hready hw hd hahead hall

/-- After the acceptance and `n` of the micro-operations the sequencer and V are where `microStep` takes them. -/
theorem checkedRun_mixing (n : Nat) (hn : n ≤ 80) :
    ∃ u, checkedRun (n + 1) s = .next u ∧ Mixing s ((microStep s.m)^[n] (.mix 0 0, setup s.h c f)) u := by
  induction n with
  | zero =>
    obtain ⟨u, hu, hmix⟩ := mixing_of_comp_accepted hready hw hd hahead hall
    exact ⟨u, checkedRun_succ 0 hu, hmix⟩
  | succ n ih =>
    obtain ⟨u, hrun, hmix⟩ := ih (by omega)
    obtain ⟨r, k, hseq, -⟩ := seqAfterMicro_iterate_mix n (by omega)
    rw [Function.iterate_succ_apply']
    generalize hp : (microStep s.m)^[n] (.mix 0 0, setup s.h c f) = p at hmix
    obtain ⟨q, v⟩ := p
    obtain rfl : q = .mix r k := by
      rw [← hseq, ← microStep_iterate_fst s.m n (.mix 0 0, setup s.h c f), hp]
    obtain ⟨u', hstep, hmix'⟩ := hmix.next
    exact ⟨u', (checkedRun_add (n + 1) 1 hrun).trans (checkedRun_succ 0 hstep), hmix'⟩

/-- Until the `FEED` step is done the sequencer is not IDLE. -/
theorem checkedRun_busy (n : Nat) (hn : n ≤ 80) : ∃ u, checkedRun (n + 1) s = .next u ∧ ready u = false := by
  obtain ⟨u, hrun, hmix⟩ := checkedRun_mixing hready hw hd hahead hall n hn
  refine ⟨u, hrun, ready_of_seq_ne_idle ?_⟩
  rw [hmix.seq, microStep_iterate_fst]
  obtain hlt | rfl := hn.lt_or_eq
  · obtain ⟨r, k, hseq, -⟩ := seqAfterMicro_iterate_mix n hlt
    simp [hseq]
  · simp [seqAfterMicro_iterate_feed]

/-- The whole run of a compression (40_compress.md R59). -/
theorem checkedRun_compressed : ∃ u, checkedRun 82 s = .next u ∧ Compressed s (compress s.h s.m c f) u := by
  obtain ⟨u, hrun, hmix⟩ := checkedRun_mixing hready hw hd hahead hall 80 le_rfl
  rw [microStep_iterate_all] at hmix
  obtain ⟨u', hstep, hdone⟩ := hmix.feed
  exact ⟨u', (checkedRun_add 81 1 hrun).trans (checkedRun_succ 0 hstep), hdone⟩

end

/-- With a word of H or M unwritten the `COMP` is refused, and the whole run with it (10_state.md R27). -/
theorem checkedRun_comp_unwritten {s : State} {w : CmdWord} {c : Word} {f : Bool} (hready : ready s = true)
    (hw : s.presented = some w) (hd : decodeCommand w = .command (.comp c f)) (hall : ¬ AllWritten s) {n : Nat}
    (hn : 1 ≤ n) : checkedRun n s = .refused .unwrittenRead := by
  obtain ⟨n, rfl⟩ : ∃ n', n = n' + 1 := ⟨n - 1, by omega⟩
  apply checkedRun_of_refused
  rw [checkedStep_refused_iff_of_select (.inr (select_accept_of_presented hready hw hd)), ← Bool.not_eq_false,
    readsUnwritten_comp_eq_false_iff, allH_iff, allM_iff]
  exact hall

theorem Compressed.ready {s u : State} {h : Vector Word 8} (hu : Compressed s h u) (hready : ready s = true) :
    ready u = true := by
  obtain ⟨herr, -⟩ := hu.sameLatch
  exact (ready_iff u).2 ⟨hu.seq, herr.trans ((ready_iff s).1 hready).2⟩

/-- Settles O31. Up to the `FEED` step the sequencer is not IDLE. -/
theorem compressionTakes82Steps : Obligations.CompressionTakes82Steps := by
  intro s w c f hready hw hd hahead
  refine ⟨fun hall => ⟨fun n hn hn' => ?busy, ?done⟩, fun hall n hn => checkedRun_comp_unwritten hready hw hd hall hn⟩
  case busy =>
    obtain ⟨n, rfl⟩ : ∃ n', n = n' + 1 := ⟨n - 1, by omega⟩
    exact checkedRun_busy hready hw hd hahead hall n (by omega)
  case done =>
    obtain ⟨u, hrun, hdone⟩ := checkedRun_compressed hready hw hd hahead hall
    exact ⟨u, hrun, hdone.ready hready⟩

/-- Settles O32. -/
theorem compressionRunEqualsTheFunction : Obligations.CompressionRunEqualsTheFunction := by
  intro s w c f hready hw hd hahead
  refine ⟨fun hall => ?written, fun hall n hn => ?unwritten⟩
  case written =>
    obtain ⟨u, hrun, hdone⟩ := checkedRun_compressed hready hw hd hahead hall
    exact ⟨u, hrun, hdone.h, hdone.hMark, hdone.sameM, hdone.sameLatch, hdone.seq, hdone.rsp, hdone.refused⟩
  case unwritten =>
    have hrefused := checkedRun_comp_unwritten hready hw hd hall hn
    exact ⟨hrefused, ((checkedRun_refused hrefused).2 n le_rfl).2⟩

end Sys2Proof.Machine
end

section
/-! PROOF. The host's software: the blocks of a message (44_host_sequences.md R82), the two hashers (R83 to R85), and the assembler's
pseudo-instructions and refusals (30_encoding.md R51, R52). -/

namespace Sys2Proof.Machine

/-! The blocks of a message. -/

theorem padBlock_getElem (ws : List Word) (j : Fin 16) : (padBlock ws)[j] = (ws[j.val]?).getD 0#32 := by
  simp [padBlock]

theorem blocksFrom_of_length_le {ws : List Word} (n t : Nat) (h : ws.length ≤ 16) :
    blocksFrom n t ws = [{ words := padBlock ws, t := t + 4 * ws.length, final := true }] := by
  cases n with
  | zero => rfl
  | succ n => simp [blocksFrom, Nat.not_lt.2 h]

theorem blocksFrom_of_lt_length {ws : List Word} (n t : Nat) (h : 16 < ws.length) :
    blocksFrom (n + 1) t ws =
      { words := padBlock (ws.take 16), t := t + 64, final := false } :: blocksFrom n (t + 64) (ws.drop 16) := by
  simp [blocksFrom, h]

theorem blocksFrom_length (n t : Nat) (ws : List Word) (hn : ws.length ≤ n) :
    (blocksFrom n t ws).length = max 1 ((ws.length + 15) / 16) := by
  induction n generalizing t ws with
  | zero =>
    rw [blocksFrom_of_length_le 0 t (by omega), List.length_singleton]
    omega
  | succ n ih =>
    by_cases hlen : 16 < ws.length
    · rw [blocksFrom_of_lt_length n t hlen, List.length_cons, ih (t + 64) (ws.drop 16) (by simp; omega), List.length_drop]
      omega
    · rw [blocksFrom_of_length_le (n + 1) t (by omega), List.length_singleton]
      omega

/-- What R82 says of block `k` of `count` blocks of the words `ws`, with the counter at `t` before the first of them. -/
def IsBlock (t : Nat) (ws : List Word) (count k : Nat) (b : Block) : Prop :=
  b.final = decide (k + 1 = count) ∧ b.t = (if k + 1 = count then t + 4 * ws.length else t + 64 * (k + 1)) ∧
    ∀ j : Fin 16, b.words[j] = (ws[16 * k + j.val]?).getD 0#32

/-- Words that fit in one block are the only and last one. -/
theorem isBlock_last (t : Nat) (ws : List Word) :
    IsBlock t ws 1 0 { words := padBlock ws, t := t + 4 * ws.length, final := true } :=
  ⟨rfl, rfl, fun j => by simpa using padBlock_getElem ws j⟩

/-- The first sixteen words, when more follow. -/
theorem isBlock_first (t : Nat) (ws : List Word) {count : Nat} (h : 1 < count) :
    IsBlock t ws count 0 { words := padBlock (ws.take 16), t := t + 64, final := false } := by
  have hne : ¬ 0 + 1 = count := by omega
  refine ⟨by simp [hne], by simp [hne], fun j => ?_⟩
  rw [padBlock_getElem, List.getElem?_take_of_lt j.isLt, Nat.mul_zero, Nat.zero_add]

/-- A block of what follows the first sixteen words is the next block of the whole. -/
theorem IsBlock.succ {t : Nat} {ws : List Word} {count k : Nat} {b : Block} (hlen : 16 ≤ ws.length)
    (h : IsBlock (t + 64) (ws.drop 16) count k b) : IsBlock t ws (count + 1) (k + 1) b := by
  obtain ⟨hfinal, ht, hwords⟩ := h
  refine ⟨by simp [hfinal], ?counter, fun j => ?words⟩
  case counter =>
    simp only [ht, List.length_drop, Nat.add_right_cancel_iff]
    split <;> omega
  case words =>
    rw [hwords, List.getElem?_drop, show 16 + (16 * k + j.val) = 16 * (k + 1) + j.val by omega]

theorem blocksFrom_isBlock {n t k : Nat} {ws : List Word} {b : Block} (hn : ws.length ≤ n)
    (hk : (blocksFrom n t ws)[k]? = some b) : IsBlock t ws (blocksFrom n t ws).length k b := by
  induction n generalizing t ws k with
  | zero =>
    rw [blocksFrom_of_length_le 0 t (by omega)] at hk ⊢
    obtain ⟨rfl, rfl⟩ : k = 0 ∧ _ = b := by simpa [List.getElem?_singleton] using hk
    exact isBlock_last t ws
  | succ n ih =>
    by_cases hlen : 16 < ws.length
    · have hrest : (ws.drop 16).length ≤ n := by
        rw [List.length_drop]
        omega
      have hcount : 0 < (blocksFrom n (t + 64) (ws.drop 16)).length := by
        rw [blocksFrom_length n _ _ hrest]
        omega
      rw [blocksFrom_of_lt_length n t hlen] at hk ⊢
      cases k with
      | zero =>
        obtain rfl := Option.some.inj hk
        exact isBlock_first t ws (Nat.succ_lt_succ hcount)
      | succ k => exact (ih hrest hk).succ (by omega)
    · rw [blocksFrom_of_length_le (n + 1) t (by omega)] at hk ⊢
      obtain ⟨rfl, rfl⟩ : k = 0 ∧ _ = b := by simpa [List.getElem?_singleton] using hk
      exact isBlock_last t ws

/-- Settles O45. The blocks are counted and described by induction on the fuel, sixteen words at a time. -/
theorem generalHasherBlocks : Obligations.GeneralHasherBlocks := by
  refine fun ws => ⟨blocksFrom_length ws.length 0 ws le_rfl, fun k hk => ?_⟩
  obtain ⟨hfinal, ht, hwords⟩ := blocksFrom_isBlock le_rfl (List.getElem?_eq_getElem hk)
  simp only [Nat.zero_add] at ht
  exact ⟨hfinal, ht, hwords⟩

/-! The two hashers. -/

theorem slotWords_length (qs : List Slot) : (slotWords qs).length = 2 * qs.length := by
  induction qs with
  | nil => rfl
  | cons q qs ih =>
    rw [slotWords_cons, List.length_cons, List.length_cons, ih, List.length_cons]
    omega

/-- Sixteen words are one block, with the counter at 64, and the fixed-block hasher sends its commands
(44_host_sequences.md R83). -/
theorem hashCommands_of_length_eq {ws : List Word} (h : ws.length = 16) :
    hashCommands ws = hashFixedBlockCommands (padBlock ws) := by
  simp [hashCommands, messageBlocks, blocksFrom_of_length_le _ _ h.le, h, Block.commands, hashFixedBlockCommands]

theorem hashFixedBlockCommands_length (b : Vector Word 16) : (hashFixedBlockCommands b).length = 26 := by
  simp [hashFixedBlockCommands, readDigest]

/-- Settles O46. -/
theorem twoHashersAgreeOnOneBlock : Obligations.TwoHashersAgreeOnOneBlock := by
  intro input hinput
  have hwords : (slotWords input).length = 16 := by rw [slotWords_length, hinput]
  have hgeneral : hashGeneral input 4 = .ok (hashFixedBlockCommands (padBlock (slotWords input))) := by
    simp [hashGeneral, hinput, hashCommands_of_length_eq hwords]
  have hfixed : hashFixedBlock input 4 = .ok (hashFixedBlockCommands (padBlock (slotWords input))) := by
    simp [hashFixedBlock, hinput]
  exact ⟨hgeneral.trans hfixed.symm, _, hgeneral, hashFixedBlockCommands_length _⟩

theorem hashGeneral_of_wrong_output (input : List Slot) {n : Nat} (hn : n ≠ 4) :
    hashGeneral input n = .error .bufferSize := by
  simp [hashGeneral, hn]

theorem hashGeneral_of_ceiling {input : List Slot} (h : 2 ^ 32 ≤ 8 * input.length) :
    hashGeneral input 4 = .error .counterCeiling := by
  have hslots : 2 ^ 29 ≤ input.length := by omega
  simp only [hashGeneral, ne_eq, not_true_eq_false, if_false, if_pos hslots]

theorem hashGeneral_of_accepted {input : List Slot} (h : 8 * input.length < 2 ^ 32) :
    hashGeneral input 4 = .ok (hashCommands (slotWords input)) := by
  have hslots : ¬ 2 ^ 29 ≤ input.length := by omega
  simp only [hashGeneral, ne_eq, not_true_eq_false, if_false, if_neg hslots]

/-- The general hasher's call is of one of three kinds: a wrong output, too long an input, or neither. -/
theorem hashGeneral_refusals (input : List Slot) (n : Nat) :
    (hashGeneral input n = .error .bufferSize ↔ n ≠ 4) ∧
      (hashGeneral input n = .error .counterCeiling ↔ n = 4 ∧ 2 ^ 32 ≤ 8 * input.length) ∧
      ((∃ is, hashGeneral input n = .ok is) ↔ n = 4 ∧ 8 * input.length < 2 ^ 32) := by
  by_cases hn : n = 4
  · subst hn
    obtain hshort | hlong := Nat.lt_or_ge (8 * input.length) (2 ^ 32)
    · rw [hashGeneral_of_accepted hshort]
      simpa using hshort
    · rw [hashGeneral_of_ceiling hlong]
      simpa using hlong
  · rw [hashGeneral_of_wrong_output input hn]
    simp [hn]

theorem hashFixedBlock_refusals (input : List Slot) (n : Nat) :
    (hashFixedBlock input n = .error .bufferSize ↔ ¬ (input.length = 8 ∧ n = 4)) ∧
      ((∃ is, hashFixedBlock input n = .ok is) ↔ input.length = 8 ∧ n = 4) := by
  unfold hashFixedBlock
  split
  case isTrue hwrong => simpa [imp_iff_not_or] using hwrong
  case isFalse hright => simpa [not_or] using hright

/-- Settles O47. -/
theorem hashersRefuseExactlyWrongCalls : Obligations.HashersRefuseExactlyWrongCalls := by
  intro input n
  obtain ⟨hsize, hceiling, hok⟩ := hashGeneral_refusals input n
  exact ⟨hsize, hceiling, hok, hashFixedBlock_refusals input n⟩

/-! The assembler. -/

theorem asWord_eq_none {n : Nat} (h : 2 ^ 32 ≤ n) : asWord n = none :=
  if_neg (Nat.not_lt.2 h)

theorem asWord_toNat (w : Word) : asWord w.toNat = some w := by
  simp [asWord, w.isLt]

theorem asmLdh_eq_none {i v : Nat} (h : 8 ≤ i ∨ 2 ^ 32 ≤ v) : asmLdh i v = none := by
  unfold asmLdh
  split
  case isTrue hi => rw [asWord_eq_none (by omega), Option.map_none]
  case isFalse => rfl

theorem asmLdm_eq_none {j v : Nat} (h : 16 ≤ j ∨ 2 ^ 32 ≤ v) : asmLdm j v = none := by
  unfold asmLdm
  split
  case isTrue hj => rw [asWord_eq_none (by omega), Option.map_none]
  case isFalse => rfl

theorem asmComp_eq_none {t f : Nat} (h : 2 ^ 32 ≤ t ∨ 2 ≤ f) : asmComp t f = none := by
  unfold asmComp
  split
  case isTrue hf => rw [asWord_eq_none (by omega), Option.map_none]
  case isFalse => rfl

theorem asmRdh_eq_none {i : Nat} (h : 8 ≤ i) : asmRdh i = none :=
  dif_neg (Nat.not_lt.2 h)

theorem asmLdm_toNat (j : Fin 16) (w : Word) : asmLdm j.val w.toNat = some (.ldm j w) := by
  simp [asmLdm, asWord_toNat]

theorem slotLow_toNat (q : Slot) : (slotLow q).toNat = q.toNat % 2 ^ 32 := by
  simp [slotLow]

theorem slotHigh_toNat (q : Slot) : (slotHigh q).toNat = q.toNat / 2 ^ 32 := by
  have hq := q.isLt
  simp [slotHigh, Nat.shiftRight_eq_div_pow]
  omega

/-- A slot is split into its two words, the low one first (30_encoding.md R52). -/
theorem asmLdm64_toNat (k : Fin 8) (q : Slot) {lo hi : Fin 16} (hlo : lo.val = 2 * k.val) (hhi : hi.val = 2 * k.val + 1) :
    asmLdm64 k.val q.toNat = [some (.ldm lo (slotLow q)), some (.ldm hi (slotHigh q))] := by
  rw [asmLdm64, if_pos ⟨k.isLt, q.isLt⟩, ← slotLow_toNat, ← slotHigh_toNat, ← hhi, ← hlo, asmLdm_toNat, asmLdm_toNat]

theorem asmRdh64_eq (k : Fin 4) {lo hi : Fin 8} (hlo : lo.val = 2 * k.val) (hhi : hi.val = 2 * k.val + 1) :
    asmRdh64 k.val = [some (.rdh lo), some (.rdh hi)] := by
  rw [asmRdh64, ← hhi, ← hlo]
  simp [asmRdh]

theorem commandWord_ldm (j : Fin 16) (v : Word) : (Instr.ldm j v).commandWord = some (3#4 ++ BitVec.ofNat 4 j.val ++ v) :=
  rfl

theorem commandWord_rdh (i : Fin 8) :
    (Instr.rdh i).commandWord = some (5#4 ++ 0#1 ++ BitVec.ofNat 3 i.val ++ 0#32) := by
  rw [hIndex_word_eq_toWord]
  rfl

/-- A line that expands to two commands is assembled to their two words. -/
theorem assemble_pair {l : Line} {i i' : Instr} {w w' : CmdWord}
    (hl : assemble l = (allSome l.expand).map fun is => is.filterMap Instr.commandWord)
    (hexpand : l.expand = [some i, some i']) (hw : i.commandWord = some w) (hw' : i'.commandWord = some w') :
    assemble l = some [w, w'] := by
  simp [hl, hexpand, allSome, hw, hw']

theorem assemble_of_refused {l : Line}
    (hl : assemble l = (allSome l.expand).map fun is => is.filterMap Instr.commandWord) (hexpand : l.expand = [none]) :
    assemble l = none := by
  simp [hl, hexpand, allSome]

/-- Settles O48. Each pseudo-instruction expands to two commands, and a refused operand to none. -/
theorem pseudoInstructionsExpandLowWordFirst : Obligations.PseudoInstructionsExpandLowWordFirst := by
  refine ⟨fun k q => ?ldm64, fun k => ?rdh64, fun i v h => ?ldh, fun j v h => ?ldm, fun c f h => ?comp, fun i h => ?rdh⟩
  case ldm64 =>
    exact assemble_pair rfl
      (asmLdm64_toNat k q (lo := ⟨2 * k.val, by omega⟩) (hi := ⟨2 * k.val + 1, by omega⟩) rfl rfl)
      (commandWord_ldm _ _) (commandWord_ldm _ _)
  case rdh64 =>
    exact assemble_pair rfl (asmRdh64_eq k (lo := ⟨2 * k.val, by omega⟩) (hi := ⟨2 * k.val + 1, by omega⟩) rfl rfl)
      (commandWord_rdh _) (commandWord_rdh _)
  case ldh => exact assemble_of_refused rfl (congrArg (fun o => [o]) (asmLdh_eq_none h))
  case ldm => exact assemble_of_refused rfl (congrArg (fun o => [o]) (asmLdm_eq_none h))
  case comp => exact assemble_of_refused rfl (congrArg (fun o => [o]) (asmComp_eq_none h))
  case rdh => exact assemble_of_refused rfl (congrArg (fun o => [o]) (asmRdh_eq_none h))

end Sys2Proof.Machine
end

section
/-! PROOF. A whole job (44_host_sequences.md R82, R86): the checked run of the general hasher's commands, command by command and block
by block. -/

namespace Sys2Proof.Machine

open Sys2Proof.Safety Sys2Proof.Claims

/-- A ready core whose host only presents, with the commands `is` as the stream and the refused mark at `mark`. -/
structure Serving (mark : Bool) (is : List Instr) (s : State) : Prop where
  ready : ready s = true
  acts : s.acts = []
  cmds : s.cmds = is.filterMap Instr.commandWord
  refused : s.refused = mark

theorem encode_of_commandWord {i : Instr} {w : CmdWord} (h : i.commandWord = some w) : encode i = .command w := by
  unfold Instr.commandWord at h
  split at h <;> cases h
  assumption

theorem Serving.presented {mark : Bool} {i : Instr} {is : List Instr} {s : State} {w : CmdWord}
    (hs : Serving mark (i :: is) s) (hw : i.commandWord = some w) : s.presented = some w := by
  simp [State.presented, State.currentAct, hs.acts, hs.cmds, hw]

theorem Serving.noResetAhead {mark : Bool} {is : List Instr} {s : State} (hs : Serving mark is s) : NoResetAhead s := by
  simp [NoResetAhead, hs.acts]

theorem Serving.cmds_tail {mark : Bool} {i : Instr} {is : List Instr} {s : State} {w : CmdWord}
    (hs : Serving mark (i :: is) s) (hw : i.commandWord = some w) : s.cmds.tail = is.filterMap Instr.commandWord := by
  simp [hs.cmds, hw]

/-- A command that starts no compression and reads no unwritten word is performed in one checked step, and the core is ready for
the next one. -/
theorem Serving.next {mark : Bool} {i : Instr} {is : List Instr} {s : State} {w : CmdWord} (hs : Serving mark (i :: is) s)
    (hw : i.commandWord = some w) (hcomp : ∀ c f, i ≠ .comp c f) (hread : readsUnwritten i s = false) :
    ∃ u, checkedStep s = .next u ∧ exec i s.advanceHost.takeCommand = .next u ∧ Serving mark is u := by
  have hd := decodeCommand_of_encode (encode_of_commandWord hw)
  have hpresented := hs.presented hw
  obtain ⟨u, hexec⟩ := exec_answers i s.advanceHost.takeCommand
  refine ⟨u, (checkedStep_of_command hs.ready hpresented hd hread).trans hexec, hexec, ?_⟩
  obtain ⟨herr, -, hcmds, hacts, -⟩ := exec_keeps_latch_and_stream hexec
  obtain ⟨hidle, hnoerr⟩ := (ready_iff s).1 hs.ready
  obtain hseq | ⟨-, c, f, rfl⟩ := exec_command_seq hd hexec
  · exact {
      ready := (ready_iff u).2 ⟨hseq.trans hidle, herr.trans hnoerr⟩
      acts := hacts.trans (by simp [hs.acts])
      cmds := hcmds.trans ((takeCommand_cmds_of_presented hpresented).trans (hs.cmds_tail hw))
      refused := by simp [exec_refused hexec, readsUnwritten_takeCommand, hread, hs.refused] }
  · exact absurd rfl (hcomp c f)

/-! Loading a block. -/

/-- The `LDM` commands of a list of indices load the words at these indices, mark them, and leave H. -/
theorem Serving.loads {mark : Bool} {is : List Instr} (ws : Vector Word 16) (js : List (Fin 16)) {s : State}
    (hs : Serving mark (js.map (fun j => .ldm j ws[j]) ++ is) s) :
    ∃ u, checkedRun js.length s = .next u ∧ Serving mark is u ∧ SameH s u ∧
      ∀ j : Fin 16, j ∈ js ∨ (s.m[j] = ws[j] ∧ s.mMark[j] = true) → u.m[j] = ws[j] ∧ u.mMark[j] = true := by
  induction js generalizing s with
  | nil => exact ⟨s, rfl, hs, ⟨rfl, rfl⟩, fun j hj => by simpa using hj⟩
  | cons i js ih =>
    obtain ⟨u, hstep, hexec, hu⟩ := hs.next (commandWord_ldm i ws[i]) (fun c f => by simp) rfl
    obtain ⟨t, hrun, ht, ⟨hh, hmark⟩, hloaded⟩ := ih hu
    cases hexec
    refine ⟨t, (checkedRun_succ js.length hstep).trans hrun, ht, ⟨hh, hmark⟩, fun j hj => hloaded j ?_⟩
    by_cases hji : j = i
    · subst hji
      exact .inr ⟨by simp, by simp⟩
    · obtain hmem | ⟨hword, hwritten⟩ := hj
      · exact .inl ((List.mem_cons.1 hmem).resolve_left hji)
      · refine .inr ⟨(set_getElem_fin s.m i j ws[i]).trans ?_, (set_getElem_fin s.mMark i j true).trans ?_⟩
        · rw [if_neg hji, hword]
        · rw [if_neg hji, hwritten]

/-- The sixteen `LDM` commands of a block leave the block in M, all of it written. -/
theorem Serving.loadsBlock {mark : Bool} {is : List Instr} (ws : Vector Word 16) {s : State}
    (hs : Serving mark ((List.finRange 16).map (fun j => .ldm j ws[j]) ++ is) s) :
    ∃ u, checkedRun 16 s = .next u ∧ Serving mark is u ∧ SameH s u ∧ u.m = ws ∧ ∀ j : Fin 16, u.mMark[j] = true := by
  obtain ⟨u, hrun, hu, hH, hloaded⟩ := hs.loads ws (List.finRange 16)
  rw [List.length_finRange] at hrun
  refine ⟨u, hrun, hu, hH, Vector.ext fun j hj => ?_, fun j => ?_⟩
  · exact (hloaded ⟨j, hj⟩ (.inl (List.mem_finRange _))).1
  · exact (hloaded j (.inl (List.mem_finRange j))).2

/-! The blocks. -/

/-- The commands of a block compress it into H, which has to be written for it (40_compress.md R59). -/
theorem Serving.compressesBlock {mark : Bool} {is : List Instr} {b : Block} {s : State}
    (hs : Serving mark (b.commands ++ is) s) (hH : ∀ i : Fin 8, s.hMark[i] = true) :
    ∃ n u, checkedRun n s = .next u ∧ Serving mark is u ∧ u.h = b.apply s.h ∧ ∀ i : Fin 8, u.hMark[i] = true := by
  rw [Block.commands, List.append_assoc, List.singleton_append] at hs
  obtain ⟨u, hrun, hu, ⟨hh, hmark⟩, hm, hM⟩ := hs.loadsBlock b.words
  have hw : (Instr.comp (BitVec.ofNat 32 b.t) b.final).commandWord = some _ := rfl
  have hd := decodeCommand_of_encode (encode_of_commandWord hw)
  have hall : AllWritten u := ⟨fun i => hmark ▸ hH i, hM⟩
  obtain ⟨t, hrun', ht⟩ := checkedRun_compressed hu.ready (hu.presented hw) hd hu.noResetAhead hall
  obtain ⟨hacts, hcmds⟩ := ht.stream hu.acts
  refine ⟨16 + 82, t, (checkedRun_add 16 82 hrun).trans hrun', ?serving, ?hash, fun i => ?written⟩
  case serving =>
    exact ⟨ht.ready hu.ready, hacts, hcmds.trans (hu.cmds_tail hw), ht.refused.trans hu.refused⟩
  case hash => rw [ht.h, hm, hh, Block.apply]
  case written =>
    rw [ht.hMark]
    exact hall.1 i

theorem Serving.compressesBlocks {mark : Bool} {is : List Instr} (bs : List Block) {s : State}
    (hs : Serving mark (bs.flatMap Block.commands ++ is) s) (hH : ∀ i : Fin 8, s.hMark[i] = true) :
    ∃ n u, checkedRun n s = .next u ∧ Serving mark is u ∧ u.h = bs.foldl Block.apply s.h ∧
      ∀ i : Fin 8, u.hMark[i] = true := by
  induction bs generalizing s with
  | nil => exact ⟨0, s, rfl, hs, rfl, hH⟩
  | cons b bs ih =>
    rw [List.flatMap_cons, List.append_assoc] at hs
    obtain ⟨n, u, hrun, hu, hh, hmark⟩ := hs.compressesBlock hH
    obtain ⟨n', t, hrun', ht, hh', hmark'⟩ := ih hu hmark
    exact ⟨n + n', t, (checkedRun_add n n' hrun).trans hrun', ht, by rw [hh', hh, List.foldl_cons], hmark'⟩

/-- `INIT` and the blocks leave the hash of the message in H, whatever H, M and V held before. -/
theorem Serving.hashes {mark : Bool} {ws : List Word} {s : State} (hs : Serving mark (hashCommands ws) s) :
    ∃ n u, checkedRun n s = .next u ∧ Serving mark readDigest u ∧ u.h = hashValue ws ∧
      ∀ i : Fin 8, u.hMark[i] = true := by
  have hw : Instr.init.commandWord = some _ := rfl
  obtain ⟨u, hstep, hexec, hu⟩ := Serving.next hs hw (fun c f => by simp) rfl
  cases hexec
  obtain ⟨n, t, hrun, ht, hh, hmark⟩ := hu.compressesBlocks (messageBlocks ws) (by simp)
  exact ⟨n + 1, t, (checkedRun_succ n hstep).trans hrun, ht, hh, hmark⟩

/-! Reading the digest. -/

theorem exec_rdh_frame {i : Fin 8} {s t : State} (h : exec (.rdh i) s = .next t) :
    t.rsp = some s.h[i] ∧ t.h = s.h ∧ t.hMark = s.hMark := by
  cases h
  exact ⟨rfl, rfl, rfl⟩

/-- `RDH` commands on a written H respond with its words, one a step, and leave it. -/
theorem Serving.reads {mark : Bool} {n : Nat} {ks : List (Fin 8)} {k : Fin 8} {s : State}
    (hs : Serving mark (ks.map .rdh) s) (hH : ∀ i : Fin 8, s.hMark[i] = true) (hk : ks[n]? = some k) :
    ∃ x, checkedRun (n + 1) s = .next x ∧ x.rsp = some s.h[k] ∧ x.h = s.h ∧
      Serving mark ((ks.drop (n + 1)).map .rdh) x := by
  induction ks generalizing n s with
  | nil => simp at hk
  | cons i ks ih =>
    obtain ⟨u, hstep, hexec, hu⟩ := hs.next (commandWord_rdh i) (fun c f => by simp) (by simp [readsUnwritten, hH i])
    obtain ⟨hrsp, hh, hmark⟩ := exec_rdh_frame hexec
    rw [State.takeCommand_h, State.advanceHost_h] at hrsp hh
    rw [State.takeCommand_hMark, State.advanceHost_hMark] at hmark
    cases n with
    | zero =>
      obtain rfl : i = k := by simpa using hk
      exact ⟨u, checkedRun_succ 0 hstep, hrsp, hh, hu⟩
    | succ n =>
      rw [← hmark] at hH
      rw [← hh]
      obtain ⟨x, hrun, hx⟩ := ih hu hH hk
      exact ⟨x, (checkedRun_succ (n + 1) hstep).trans hrun, hx⟩

/-- Settles O49. `INIT` and the blocks leave the hash in H and `RDH` reads it; no command reads an unwritten word, since `INIT`
writes H and every block all of M. -/
theorem hashJobDeliversTheDigest : Obligations.HashJobDeliversTheDigest := by
  intro s ws hready hacts hcmds
  obtain ⟨n, u, hrun, hu, hh, hmark⟩ := Serving.hashes (ws := ws) ⟨hready, hacts, hcmds, rfl⟩
  refine ⟨n, ⟨u, hrun, hu.ready, hh, hu.cmds, hu.refused⟩, fun k => ?_⟩
  have hk : (List.finRange 8)[k.val]? = some k := by simp
  obtain ⟨x, hreads, hrsp, hkept, hx⟩ := hu.reads hmark hk
  exact ⟨x, (checkedRun_add n (k.val + 1) hrun).trans hreads, hh ▸ hrsp, hx.ready, hkept.trans hh, hx.refused⟩

end Sys2Proof.Machine
end
